-- ==== Sys2Proof/Word.lean ====
section
/-! DEFINITION. The two widths of the CORE (R8, 00_scope.md): bytes and 16-bit words. The helpers that split, join and
extend them stand in Sys2Proof/Decode.lean. -/

namespace Sys2Proof

/-- A byte: A, X, Y, SP, SR, an opcode, an operand byte and a memory cell are 8 bits (R8). -/
abbrev Byte := BitVec 8

/-- A word: PC and every address are 16 bits (R8, R51). -/
abbrev Word := BitVec 16

end Sys2Proof
end

