-- ==== Sys2Proof/Config.lean ====
section
/-! DEFINITION. What the spec leaves to the implementation (R9, 00_scope.md). The four parameters with a default are the
fields of `Params`, which State carries so that a statement about every state is a statement about every value of them;
the two OPEN addresses are constants without a body; HOST_STOP is an argument of a run (Sys2Proof/Safety.lean).
The defaults themselves stand in Sys2Proof/Machine/Defaults.lean. -/

namespace Sys2Proof

/-- PTR_BYTE_ORDER (R9, R56): which byte of a 16-bit pointer in memory is the high one. -/
inductive PtrByteOrder where
  | highFirst   -- the byte at the lower address is the high byte
  | lowFirst    -- the byte at the lower address is the low byte
deriving DecidableEq, Repr

/-- OPCODE_MAP (R9, R86): the opcode byte of each legal (mnemonic, mode) pair, in the order in which rule R84's pairs are
enumerated by rule R86 (Sys2Proof/Decode.lean `rows`): entry k is the byte of pair k. -/
abbrev OpcodeMap := List Byte

/-- The parameters of rule R9 that a step or a load reads.
DESIGN CHOICE (log 2), unsafe only for a claim that fixes a value: they stand in State and nothing changes them. -/
structure Params where
  /-- OPCODE_MAP (R86). -/
  opcodeMap : OpcodeMap
  /-- PTR_BYTE_ORDER (R56). -/
  ptrByteOrder : PtrByteOrder
  /-- PLA_SETS_NZ (R229). -/
  plaSetsNZ : Bool
  /-- LOAD_ORIGIN (R98, R293). -/
  loadOrigin : Word
deriving DecidableEq, Repr

/-- FB_BASE (R9, D15), OPEN: the framebuffer's first address. Its type is D15's bound `FB_BASE + 1023 ≤ 0xFFFF` and no
more: nothing can evaluate it (log 6, safe). -/
opaque Config.fbBase : Fin 64513

/-- RNG_CELL (R9, R60, D15), OPEN: the address of the cell the entropy source writes (log 6, safe). -/
opaque Config.rngCell : Word

end Sys2Proof
end

