-- ==== Sys2Proof/Syntax.lean ====
section
/-! DEFINITION. The instructions: 56 mnemonics, 13 addressing modes, and `Instr` with one constructor for each of the 151
rows of spec/opcode_table.json (R82, R84, 30_encoding.md). A constructor's argument is its operand: none, the byte `b1`, or
the 16-bit value `cat16(hi, lo)` (R81, R87). The opcode bytes stand in Sys2Proof/Decode.lean. -/

namespace Sys2Proof

/-- The 56 mnemonics (R84), in alphabetical order. -/
inductive Mnemonic where
  | adc | and | asl | bcc | bcs | beq | bit | bmi | bne | bpl | brk | bvc | bvs | clc | cld | cli | clv | cmp
  | cpx | cpy | dec | dex | dey | eor | inc | inx | iny | jmp | jsr | lda | ldx | ldy | lsr | nop | ora | pha
  | php | pla | plp | rol | ror | rti | rts | sbc | sec | sed | sei | sta | stx | sty | tax | tay | tsx | txa
  | txs | tya
deriving DecidableEq, Repr

/-- The 13 addressing modes, in the order of rule R82. -/
inductive Mode where
  | acc | abs | abx | aby | imm | imp | ind | izx | izy | rel | zp | zpx | zpy
deriving DecidableEq, Repr

/-- The operand length of each mode (R83). -/
def Mode.operandLength : Mode → Nat
  | .acc | .imp => 0
  | .imm | .zp | .zpx | .zpy | .rel | .izx | .izy => 1
  | .abs | .abx | .aby | .ind => 2

/-- What follows the opcode: nothing (F1), the byte `b1` (F2), or `cat16(hi, lo)` (F3), R81. -/
inductive Operand where
  | none
  | byte (b : Byte)
  | word (w : Word)
deriving DecidableEq, Repr

/-- The instructions: a constructor for each legal (mnemonic, mode) pair (R84), in the order of rule R86. -/
inductive Instr where
  | adcAbs (w : Word) | adcAbx (w : Word) | adcAby (w : Word) | adcImm (b : Byte) | adcIzx (b : Byte)
  | adcIzy (b : Byte) | adcZp (b : Byte) | adcZpx (b : Byte)
  | andAbs (w : Word) | andAbx (w : Word) | andAby (w : Word) | andImm (b : Byte) | andIzx (b : Byte)
  | andIzy (b : Byte) | andZp (b : Byte) | andZpx (b : Byte)
  | aslAcc | aslAbs (w : Word) | aslAbx (w : Word) | aslZp (b : Byte) | aslZpx (b : Byte)
  | bcc (b : Byte)
  | bcs (b : Byte)
  | beq (b : Byte)
  | bitAbs (w : Word) | bitZp (b : Byte)
  | bmi (b : Byte)
  | bne (b : Byte)
  | bpl (b : Byte)
  | brk
  | bvc (b : Byte)
  | bvs (b : Byte)
  | clc
  | cld
  | cli
  | clv
  | cmpAbs (w : Word) | cmpAbx (w : Word) | cmpAby (w : Word) | cmpImm (b : Byte) | cmpIzx (b : Byte)
  | cmpIzy (b : Byte) | cmpZp (b : Byte) | cmpZpx (b : Byte)
  | cpxAbs (w : Word) | cpxImm (b : Byte) | cpxZp (b : Byte)
  | cpyAbs (w : Word) | cpyImm (b : Byte) | cpyZp (b : Byte)
  | decAbs (w : Word) | decAbx (w : Word) | decZp (b : Byte) | decZpx (b : Byte)
  | dex
  | dey
  | eorAbs (w : Word) | eorAbx (w : Word) | eorAby (w : Word) | eorImm (b : Byte) | eorIzx (b : Byte)
  | eorIzy (b : Byte) | eorZp (b : Byte) | eorZpx (b : Byte)
  | incAbs (w : Word) | incAbx (w : Word) | incZp (b : Byte) | incZpx (b : Byte)
  | inx
  | iny
  | jmpAbs (w : Word) | jmpInd (w : Word)
  | jsr (w : Word)
  | ldaAbs (w : Word) | ldaAbx (w : Word) | ldaAby (w : Word) | ldaImm (b : Byte) | ldaIzx (b : Byte)
  | ldaIzy (b : Byte) | ldaZp (b : Byte) | ldaZpx (b : Byte)
  | ldxAbs (w : Word) | ldxAby (w : Word) | ldxImm (b : Byte) | ldxZp (b : Byte) | ldxZpy (b : Byte)
  | ldyAbs (w : Word) | ldyAbx (w : Word) | ldyImm (b : Byte) | ldyZp (b : Byte) | ldyZpx (b : Byte)
  | lsrAcc | lsrAbs (w : Word) | lsrAbx (w : Word) | lsrZp (b : Byte) | lsrZpx (b : Byte)
  | nop
  | oraAbs (w : Word) | oraAbx (w : Word) | oraAby (w : Word) | oraImm (b : Byte) | oraIzx (b : Byte)
  | oraIzy (b : Byte) | oraZp (b : Byte) | oraZpx (b : Byte)
  | pha
  | php
  | pla
  | plp
  | rolAcc | rolAbs (w : Word) | rolAbx (w : Word) | rolZp (b : Byte) | rolZpx (b : Byte)
  | rorAcc | rorAbs (w : Word) | rorAbx (w : Word) | rorZp (b : Byte) | rorZpx (b : Byte)
  | rti
  | rts
  | sbcAbs (w : Word) | sbcAbx (w : Word) | sbcAby (w : Word) | sbcImm (b : Byte) | sbcIzx (b : Byte)
  | sbcIzy (b : Byte) | sbcZp (b : Byte) | sbcZpx (b : Byte)
  | sec
  | sed
  | sei
  | staAbs (w : Word) | staAbx (w : Word) | staAby (w : Word) | staIzx (b : Byte) | staIzy (b : Byte)
  | staZp (b : Byte) | staZpx (b : Byte)
  | stxAbs (w : Word) | stxZp (b : Byte) | stxZpy (b : Byte)
  | styAbs (w : Word) | styZp (b : Byte) | styZpx (b : Byte)
  | tax
  | tay
  | tsx
  | txa
  | txs
  | tya
deriving DecidableEq, Repr

/-- The mnemonic of an instruction. -/
def Instr.mnemonic : Instr → Mnemonic
  | .adcAbs _ | .adcAbx _ | .adcAby _ | .adcImm _ | .adcIzx _ | .adcIzy _ | .adcZp _ | .adcZpx _ => .adc
  | .andAbs _ | .andAbx _ | .andAby _ | .andImm _ | .andIzx _ | .andIzy _ | .andZp _ | .andZpx _ => .and
  | .aslAcc | .aslAbs _ | .aslAbx _ | .aslZp _ | .aslZpx _ => .asl
  | .bcc _ => .bcc
  | .bcs _ => .bcs
  | .beq _ => .beq
  | .bitAbs _ | .bitZp _ => .bit
  | .bmi _ => .bmi
  | .bne _ => .bne
  | .bpl _ => .bpl
  | .brk => .brk
  | .bvc _ => .bvc
  | .bvs _ => .bvs
  | .clc => .clc
  | .cld => .cld
  | .cli => .cli
  | .clv => .clv
  | .cmpAbs _ | .cmpAbx _ | .cmpAby _ | .cmpImm _ | .cmpIzx _ | .cmpIzy _ | .cmpZp _ | .cmpZpx _ => .cmp
  | .cpxAbs _ | .cpxImm _ | .cpxZp _ => .cpx
  | .cpyAbs _ | .cpyImm _ | .cpyZp _ => .cpy
  | .decAbs _ | .decAbx _ | .decZp _ | .decZpx _ => .dec
  | .dex => .dex
  | .dey => .dey
  | .eorAbs _ | .eorAbx _ | .eorAby _ | .eorImm _ | .eorIzx _ | .eorIzy _ | .eorZp _ | .eorZpx _ => .eor
  | .incAbs _ | .incAbx _ | .incZp _ | .incZpx _ => .inc
  | .inx => .inx
  | .iny => .iny
  | .jmpAbs _ | .jmpInd _ => .jmp
  | .jsr _ => .jsr
  | .ldaAbs _ | .ldaAbx _ | .ldaAby _ | .ldaImm _ | .ldaIzx _ | .ldaIzy _ | .ldaZp _ | .ldaZpx _ => .lda
  | .ldxAbs _ | .ldxAby _ | .ldxImm _ | .ldxZp _ | .ldxZpy _ => .ldx
  | .ldyAbs _ | .ldyAbx _ | .ldyImm _ | .ldyZp _ | .ldyZpx _ => .ldy
  | .lsrAcc | .lsrAbs _ | .lsrAbx _ | .lsrZp _ | .lsrZpx _ => .lsr
  | .nop => .nop
  | .oraAbs _ | .oraAbx _ | .oraAby _ | .oraImm _ | .oraIzx _ | .oraIzy _ | .oraZp _ | .oraZpx _ => .ora
  | .pha => .pha
  | .php => .php
  | .pla => .pla
  | .plp => .plp
  | .rolAcc | .rolAbs _ | .rolAbx _ | .rolZp _ | .rolZpx _ => .rol
  | .rorAcc | .rorAbs _ | .rorAbx _ | .rorZp _ | .rorZpx _ => .ror
  | .rti => .rti
  | .rts => .rts
  | .sbcAbs _ | .sbcAbx _ | .sbcAby _ | .sbcImm _ | .sbcIzx _ | .sbcIzy _ | .sbcZp _ | .sbcZpx _ => .sbc
  | .sec => .sec
  | .sed => .sed
  | .sei => .sei
  | .staAbs _ | .staAbx _ | .staAby _ | .staIzx _ | .staIzy _ | .staZp _ | .staZpx _ => .sta
  | .stxAbs _ | .stxZp _ | .stxZpy _ => .stx
  | .styAbs _ | .styZp _ | .styZpx _ => .sty
  | .tax => .tax
  | .tay => .tay
  | .tsx => .tsx
  | .txa => .txa
  | .txs => .txs
  | .tya => .tya

/-- The addressing mode of an instruction. -/
def Instr.mode : Instr → Mode
  | .aslAcc | .lsrAcc | .rolAcc | .rorAcc => .acc
  | .adcAbs _ | .andAbs _ | .aslAbs _ | .bitAbs _ | .cmpAbs _ | .cpxAbs _ | .cpyAbs _ | .decAbs _ | .eorAbs _
  | .incAbs _ | .jmpAbs _ | .jsr _ | .ldaAbs _ | .ldxAbs _ | .ldyAbs _ | .lsrAbs _ | .oraAbs _ | .rolAbs _
  | .rorAbs _ | .sbcAbs _ | .staAbs _ | .stxAbs _ | .styAbs _ => .abs
  | .adcAbx _ | .andAbx _ | .aslAbx _ | .cmpAbx _ | .decAbx _ | .eorAbx _ | .incAbx _ | .ldaAbx _ | .ldyAbx _
  | .lsrAbx _ | .oraAbx _ | .rolAbx _ | .rorAbx _ | .sbcAbx _ | .staAbx _ => .abx
  | .adcAby _ | .andAby _ | .cmpAby _ | .eorAby _ | .ldaAby _ | .ldxAby _ | .oraAby _ | .sbcAby _ | .staAby _ => .aby
  | .adcImm _ | .andImm _ | .cmpImm _ | .cpxImm _ | .cpyImm _ | .eorImm _ | .ldaImm _ | .ldxImm _ | .ldyImm _
  | .oraImm _ | .sbcImm _ => .imm
  | .brk | .clc | .cld | .cli | .clv | .dex | .dey | .inx | .iny | .nop | .pha | .php | .pla | .plp | .rti
  | .rts | .sec | .sed | .sei | .tax | .tay | .tsx | .txa | .txs | .tya => .imp
  | .jmpInd _ => .ind
  | .adcIzx _ | .andIzx _ | .cmpIzx _ | .eorIzx _ | .ldaIzx _ | .oraIzx _ | .sbcIzx _ | .staIzx _ => .izx
  | .adcIzy _ | .andIzy _ | .cmpIzy _ | .eorIzy _ | .ldaIzy _ | .oraIzy _ | .sbcIzy _ | .staIzy _ => .izy
  | .bcc _ | .bcs _ | .beq _ | .bmi _ | .bne _ | .bpl _ | .bvc _ | .bvs _ => .rel
  | .adcZp _ | .andZp _ | .aslZp _ | .bitZp _ | .cmpZp _ | .cpxZp _ | .cpyZp _ | .decZp _ | .eorZp _
  | .incZp _ | .ldaZp _ | .ldxZp _ | .ldyZp _ | .lsrZp _ | .oraZp _ | .rolZp _ | .rorZp _ | .sbcZp _
  | .staZp _ | .stxZp _ | .styZp _ => .zp
  | .adcZpx _ | .andZpx _ | .aslZpx _ | .cmpZpx _ | .decZpx _ | .eorZpx _ | .incZpx _ | .ldaZpx _ | .ldyZpx _
  | .lsrZpx _ | .oraZpx _ | .rolZpx _ | .rorZpx _ | .sbcZpx _ | .staZpx _ | .styZpx _ => .zpx
  | .ldxZpy _ | .stxZpy _ => .zpy

/-- The operand of an instruction. -/
def Instr.operand : Instr → Operand
  | .aslAcc | .brk | .clc | .cld | .cli | .clv | .dex | .dey | .inx | .iny | .lsrAcc | .nop | .pha | .php
  | .pla | .plp | .rolAcc | .rorAcc | .rti | .rts | .sec | .sed | .sei | .tax | .tay | .tsx | .txa | .txs
  | .tya => .none
  | .adcImm b | .adcIzx b | .adcIzy b | .adcZp b | .adcZpx b | .andImm b | .andIzx b | .andIzy b | .andZp b
  | .andZpx b | .aslZp b | .aslZpx b | .bcc b | .bcs b | .beq b | .bitZp b | .bmi b | .bne b | .bpl b
  | .bvc b | .bvs b | .cmpImm b | .cmpIzx b | .cmpIzy b | .cmpZp b | .cmpZpx b | .cpxImm b | .cpxZp b
  | .cpyImm b | .cpyZp b | .decZp b | .decZpx b | .eorImm b | .eorIzx b | .eorIzy b | .eorZp b | .eorZpx b
  | .incZp b | .incZpx b | .ldaImm b | .ldaIzx b | .ldaIzy b | .ldaZp b | .ldaZpx b | .ldxImm b | .ldxZp b
  | .ldxZpy b | .ldyImm b | .ldyZp b | .ldyZpx b | .lsrZp b | .lsrZpx b | .oraImm b | .oraIzx b | .oraIzy b
  | .oraZp b | .oraZpx b | .rolZp b | .rolZpx b | .rorZp b | .rorZpx b | .sbcImm b | .sbcIzx b | .sbcIzy b
  | .sbcZp b | .sbcZpx b | .staIzx b | .staIzy b | .staZp b | .staZpx b | .stxZp b | .stxZpy b | .styZp b
  | .styZpx b => .byte b
  | .adcAbs w | .adcAbx w | .adcAby w | .andAbs w | .andAbx w | .andAby w | .aslAbs w | .aslAbx w | .bitAbs w
  | .cmpAbs w | .cmpAbx w | .cmpAby w | .cpxAbs w | .cpyAbs w | .decAbs w | .decAbx w | .eorAbs w | .eorAbx w
  | .eorAby w | .incAbs w | .incAbx w | .jmpAbs w | .jmpInd w | .jsr w | .ldaAbs w | .ldaAbx w | .ldaAby w
  | .ldxAbs w | .ldxAby w | .ldyAbs w | .ldyAbx w | .lsrAbs w | .lsrAbx w | .oraAbs w | .oraAbx w | .oraAby w
  | .rolAbs w | .rolAbx w | .rorAbs w | .rorAbx w | .sbcAbs w | .sbcAbx w | .sbcAby w | .staAbs w | .staAbx w
  | .staAby w | .stxAbs w | .styAbs w => .word w

/-- The length of an instruction in bytes: 1 plus the operand length of its mode (R83). -/
def Instr.length (i : Instr) : Nat := 1 + i.mode.operandLength

end Sys2Proof
end

