-- ==== Sys2Proof/WellFormed.lean ====
section
/-! DEFINITION. What makes an instruction and an opcode map well formed: the mnemonic takes the mode (R84), the operand
has the mode's length (R83), and the map is injective over the 151 pairs (R85, R86). Every term of `Instr` is well formed
by its type; the checks bite on the untyped form `RawInstr` and on `OpcodeMap`. -/

namespace Sys2Proof

/-- The modes each mnemonic takes: the table of rule R84. -/
def Mnemonic.modes : Mnemonic → List Mode
  | .adc | .and | .cmp | .eor | .lda | .ora | .sbc => [.abs, .abx, .aby, .imm, .izx, .izy, .zp, .zpx]
  | .sta => [.abs, .abx, .aby, .izx, .izy, .zp, .zpx]
  | .asl | .lsr | .rol | .ror => [.acc, .abs, .abx, .zp, .zpx]
  | .ldx => [.abs, .aby, .imm, .zp, .zpy]
  | .ldy => [.abs, .abx, .imm, .zp, .zpx]
  | .dec | .inc => [.abs, .abx, .zp, .zpx]
  | .cpx | .cpy => [.abs, .imm, .zp]
  | .stx => [.abs, .zp, .zpy]
  | .sty => [.abs, .zp, .zpx]
  | .bit => [.abs, .zp]
  | .jmp => [.abs, .ind]
  | .jsr => [.abs]
  | .bcc | .bcs | .beq | .bmi | .bne | .bpl | .bvc | .bvs => [.rel]
  | .brk | .clc | .cld | .cli | .clv | .dex | .dey | .inx | .iny | .nop | .pha | .php | .pla | .plp | .rti
  | .rts | .sec | .sed | .sei | .tax | .tay | .tsx | .txa | .txs | .tya => [.imp]

/-- A (mnemonic, mode) pair is legal when rule R84 lists it. -/
def legalPair (mn : Mnemonic) (md : Mode) : Bool := mn.modes.contains md

/-- How many bytes an operand is. -/
def Operand.length : Operand → Nat
  | .none => 0
  | .byte _ => 1
  | .word _ => 2

/-- An instruction before it is known to be one: any mnemonic with any mode and any operand. -/
structure RawInstr where
  mnemonic : Mnemonic
  mode : Mode
  operand : Operand
deriving DecidableEq, Repr

/-- Well formed: a legal pair (R84) with as many operand bytes as the mode has (R83). -/
def RawInstr.wf (r : RawInstr) : Bool :=
  legalPair r.mnemonic r.mode && r.operand.length == r.mode.operandLength

/-- The untyped form of an instruction. -/
def Instr.raw (i : Instr) : RawInstr := ⟨i.mnemonic, i.mode, i.operand⟩

/-- Well-formedness of an instruction: that of its untyped form. -/
def Instr.wf (i : Instr) : Bool := i.raw.wf

/-- An opcode map is well formed when it gives each of the 151 pairs a byte and no two the same one (R85, R86). -/
def OpcodeMap.wf (m : OpcodeMap) : Bool := m.length == 151 && decide m.Nodup

/-- The parameters are well formed when the opcode map is; every value of the other three is admitted (R9). -/
def Params.wf (p : Params) : Bool := OpcodeMap.wf p.opcodeMap

end Sys2Proof
end

