-- ==== Sys2Proof/Decode.lean ====
section
/-! DEFINITION. Bytes to instructions and back: the byte helpers of rule R11, the one opcode table of rules R84 to R86,
the decoder (total; it rejects by name, R89, R123) and the encoder (R96). The numeric opcode bytes are the parameter
OPCODE_MAP; `OpcodeMap.standard` is the spec's default (R86, D2; log 1). -/

namespace Sys2Proof

/-- `cat16(hi, lo) = hi * 256 + lo` (R11). -/
def cat16 (hi lo : Byte) : Word := hi ++ lo

/-- `hi8(w) = w[15:8]` (R11). -/
def hi8 (w : Word) : Byte := w.extractLsb' 8 8

/-- `lo8(w) = w[7:0]` (R11). -/
def lo8 (w : Word) : Byte := w.extractLsb' 0 8

/-- `zext_16(b) = b` (R11). -/
def zext16 (b : Byte) : Word := b.setWidth 16

/-- `sext_16(b)`: the byte read as two's complement, modulo 65536 (R11). -/
def sext16 (b : Byte) : Word := b.signExtend 16

/-- The operand as its bytes in memory order, high byte first (R55, R81, R96). -/
def Operand.bytes : Operand → List Byte
  | .none => []
  | .byte b => [b]
  | .word w => [hi8 w, lo8 w]

/-- The format of a row (R81): how the bytes after the opcode make the instruction. -/
inductive Form where
  | f1 (i : Instr)
  | f2 (k : Byte → Instr)
  | f3 (k : Word → Instr)

/-- A row of the opcode table: a legal pair (R84) and its format. -/
structure Row where
  mnemonic : Mnemonic
  mode : Mode
  form : Form

/-- Rows of the mnemonics in A (R86): default opcode bytes 0x01 to 0x15. -/
def rowsA : List Row := [
  ⟨.adc, .abs, .f3 .adcAbs⟩,
  ⟨.adc, .abx, .f3 .adcAbx⟩,
  ⟨.adc, .aby, .f3 .adcAby⟩,
  ⟨.adc, .imm, .f2 .adcImm⟩,
  ⟨.adc, .izx, .f2 .adcIzx⟩,
  ⟨.adc, .izy, .f2 .adcIzy⟩,
  ⟨.adc, .zp, .f2 .adcZp⟩,
  ⟨.adc, .zpx, .f2 .adcZpx⟩,
  ⟨.and, .abs, .f3 .andAbs⟩,
  ⟨.and, .abx, .f3 .andAbx⟩,
  ⟨.and, .aby, .f3 .andAby⟩,
  ⟨.and, .imm, .f2 .andImm⟩,
  ⟨.and, .izx, .f2 .andIzx⟩,
  ⟨.and, .izy, .f2 .andIzy⟩,
  ⟨.and, .zp, .f2 .andZp⟩,
  ⟨.and, .zpx, .f2 .andZpx⟩,
  ⟨.asl, .acc, .f1 .aslAcc⟩,
  ⟨.asl, .abs, .f3 .aslAbs⟩,
  ⟨.asl, .abx, .f3 .aslAbx⟩,
  ⟨.asl, .zp, .f2 .aslZp⟩,
  ⟨.asl, .zpx, .f2 .aslZpx⟩]

/-- Rows of the mnemonics in B (R86): default opcode bytes 0x16 to 0x20. -/
def rowsB : List Row := [
  ⟨.bcc, .rel, .f2 .bcc⟩,
  ⟨.bcs, .rel, .f2 .bcs⟩,
  ⟨.beq, .rel, .f2 .beq⟩,
  ⟨.bit, .abs, .f3 .bitAbs⟩,
  ⟨.bit, .zp, .f2 .bitZp⟩,
  ⟨.bmi, .rel, .f2 .bmi⟩,
  ⟨.bne, .rel, .f2 .bne⟩,
  ⟨.bpl, .rel, .f2 .bpl⟩,
  ⟨.brk, .imp, .f1 .brk⟩,
  ⟨.bvc, .rel, .f2 .bvc⟩,
  ⟨.bvs, .rel, .f2 .bvs⟩]

/-- Rows of the mnemonics in C (R86): default opcode bytes 0x21 to 0x32. -/
def rowsC : List Row := [
  ⟨.clc, .imp, .f1 .clc⟩,
  ⟨.cld, .imp, .f1 .cld⟩,
  ⟨.cli, .imp, .f1 .cli⟩,
  ⟨.clv, .imp, .f1 .clv⟩,
  ⟨.cmp, .abs, .f3 .cmpAbs⟩,
  ⟨.cmp, .abx, .f3 .cmpAbx⟩,
  ⟨.cmp, .aby, .f3 .cmpAby⟩,
  ⟨.cmp, .imm, .f2 .cmpImm⟩,
  ⟨.cmp, .izx, .f2 .cmpIzx⟩,
  ⟨.cmp, .izy, .f2 .cmpIzy⟩,
  ⟨.cmp, .zp, .f2 .cmpZp⟩,
  ⟨.cmp, .zpx, .f2 .cmpZpx⟩,
  ⟨.cpx, .abs, .f3 .cpxAbs⟩,
  ⟨.cpx, .imm, .f2 .cpxImm⟩,
  ⟨.cpx, .zp, .f2 .cpxZp⟩,
  ⟨.cpy, .abs, .f3 .cpyAbs⟩,
  ⟨.cpy, .imm, .f2 .cpyImm⟩,
  ⟨.cpy, .zp, .f2 .cpyZp⟩]

/-- Rows of the mnemonics in D (R86): default opcode bytes 0x33 to 0x38. -/
def rowsD : List Row := [
  ⟨.dec, .abs, .f3 .decAbs⟩,
  ⟨.dec, .abx, .f3 .decAbx⟩,
  ⟨.dec, .zp, .f2 .decZp⟩,
  ⟨.dec, .zpx, .f2 .decZpx⟩,
  ⟨.dex, .imp, .f1 .dex⟩,
  ⟨.dey, .imp, .f1 .dey⟩]

/-- Rows of the mnemonics in E (R86): default opcode bytes 0x39 to 0x40. -/
def rowsE : List Row := [
  ⟨.eor, .abs, .f3 .eorAbs⟩,
  ⟨.eor, .abx, .f3 .eorAbx⟩,
  ⟨.eor, .aby, .f3 .eorAby⟩,
  ⟨.eor, .imm, .f2 .eorImm⟩,
  ⟨.eor, .izx, .f2 .eorIzx⟩,
  ⟨.eor, .izy, .f2 .eorIzy⟩,
  ⟨.eor, .zp, .f2 .eorZp⟩,
  ⟨.eor, .zpx, .f2 .eorZpx⟩]

/-- Rows of the mnemonics in I (R86): default opcode bytes 0x41 to 0x46. -/
def rowsI : List Row := [
  ⟨.inc, .abs, .f3 .incAbs⟩,
  ⟨.inc, .abx, .f3 .incAbx⟩,
  ⟨.inc, .zp, .f2 .incZp⟩,
  ⟨.inc, .zpx, .f2 .incZpx⟩,
  ⟨.inx, .imp, .f1 .inx⟩,
  ⟨.iny, .imp, .f1 .iny⟩]

/-- Rows of the mnemonics in J (R86): default opcode bytes 0x47 to 0x49. -/
def rowsJ : List Row := [
  ⟨.jmp, .abs, .f3 .jmpAbs⟩,
  ⟨.jmp, .ind, .f3 .jmpInd⟩,
  ⟨.jsr, .abs, .f3 .jsr⟩]

/-- Rows of the mnemonics in L (R86): default opcode bytes 0x4A to 0x60. -/
def rowsL : List Row := [
  ⟨.lda, .abs, .f3 .ldaAbs⟩,
  ⟨.lda, .abx, .f3 .ldaAbx⟩,
  ⟨.lda, .aby, .f3 .ldaAby⟩,
  ⟨.lda, .imm, .f2 .ldaImm⟩,
  ⟨.lda, .izx, .f2 .ldaIzx⟩,
  ⟨.lda, .izy, .f2 .ldaIzy⟩,
  ⟨.lda, .zp, .f2 .ldaZp⟩,
  ⟨.lda, .zpx, .f2 .ldaZpx⟩,
  ⟨.ldx, .abs, .f3 .ldxAbs⟩,
  ⟨.ldx, .aby, .f3 .ldxAby⟩,
  ⟨.ldx, .imm, .f2 .ldxImm⟩,
  ⟨.ldx, .zp, .f2 .ldxZp⟩,
  ⟨.ldx, .zpy, .f2 .ldxZpy⟩,
  ⟨.ldy, .abs, .f3 .ldyAbs⟩,
  ⟨.ldy, .abx, .f3 .ldyAbx⟩,
  ⟨.ldy, .imm, .f2 .ldyImm⟩,
  ⟨.ldy, .zp, .f2 .ldyZp⟩,
  ⟨.ldy, .zpx, .f2 .ldyZpx⟩,
  ⟨.lsr, .acc, .f1 .lsrAcc⟩,
  ⟨.lsr, .abs, .f3 .lsrAbs⟩,
  ⟨.lsr, .abx, .f3 .lsrAbx⟩,
  ⟨.lsr, .zp, .f2 .lsrZp⟩,
  ⟨.lsr, .zpx, .f2 .lsrZpx⟩]

/-- Rows of the mnemonics in N (R86): default opcode bytes 0x61 to 0x61. -/
def rowsN : List Row := [
  ⟨.nop, .imp, .f1 .nop⟩]

/-- Rows of the mnemonics in O (R86): default opcode bytes 0x62 to 0x69. -/
def rowsO : List Row := [
  ⟨.ora, .abs, .f3 .oraAbs⟩,
  ⟨.ora, .abx, .f3 .oraAbx⟩,
  ⟨.ora, .aby, .f3 .oraAby⟩,
  ⟨.ora, .imm, .f2 .oraImm⟩,
  ⟨.ora, .izx, .f2 .oraIzx⟩,
  ⟨.ora, .izy, .f2 .oraIzy⟩,
  ⟨.ora, .zp, .f2 .oraZp⟩,
  ⟨.ora, .zpx, .f2 .oraZpx⟩]

/-- Rows of the mnemonics in P (R86): default opcode bytes 0x6A to 0x6D. -/
def rowsP : List Row := [
  ⟨.pha, .imp, .f1 .pha⟩,
  ⟨.php, .imp, .f1 .php⟩,
  ⟨.pla, .imp, .f1 .pla⟩,
  ⟨.plp, .imp, .f1 .plp⟩]

/-- Rows of the mnemonics in R (R86): default opcode bytes 0x6E to 0x79. -/
def rowsR : List Row := [
  ⟨.rol, .acc, .f1 .rolAcc⟩,
  ⟨.rol, .abs, .f3 .rolAbs⟩,
  ⟨.rol, .abx, .f3 .rolAbx⟩,
  ⟨.rol, .zp, .f2 .rolZp⟩,
  ⟨.rol, .zpx, .f2 .rolZpx⟩,
  ⟨.ror, .acc, .f1 .rorAcc⟩,
  ⟨.ror, .abs, .f3 .rorAbs⟩,
  ⟨.ror, .abx, .f3 .rorAbx⟩,
  ⟨.ror, .zp, .f2 .rorZp⟩,
  ⟨.ror, .zpx, .f2 .rorZpx⟩,
  ⟨.rti, .imp, .f1 .rti⟩,
  ⟨.rts, .imp, .f1 .rts⟩]

/-- Rows of the mnemonics in S (R86): default opcode bytes 0x7A to 0x91. -/
def rowsS : List Row := [
  ⟨.sbc, .abs, .f3 .sbcAbs⟩,
  ⟨.sbc, .abx, .f3 .sbcAbx⟩,
  ⟨.sbc, .aby, .f3 .sbcAby⟩,
  ⟨.sbc, .imm, .f2 .sbcImm⟩,
  ⟨.sbc, .izx, .f2 .sbcIzx⟩,
  ⟨.sbc, .izy, .f2 .sbcIzy⟩,
  ⟨.sbc, .zp, .f2 .sbcZp⟩,
  ⟨.sbc, .zpx, .f2 .sbcZpx⟩,
  ⟨.sec, .imp, .f1 .sec⟩,
  ⟨.sed, .imp, .f1 .sed⟩,
  ⟨.sei, .imp, .f1 .sei⟩,
  ⟨.sta, .abs, .f3 .staAbs⟩,
  ⟨.sta, .abx, .f3 .staAbx⟩,
  ⟨.sta, .aby, .f3 .staAby⟩,
  ⟨.sta, .izx, .f2 .staIzx⟩,
  ⟨.sta, .izy, .f2 .staIzy⟩,
  ⟨.sta, .zp, .f2 .staZp⟩,
  ⟨.sta, .zpx, .f2 .staZpx⟩,
  ⟨.stx, .abs, .f3 .stxAbs⟩,
  ⟨.stx, .zp, .f2 .stxZp⟩,
  ⟨.stx, .zpy, .f2 .stxZpy⟩,
  ⟨.sty, .abs, .f3 .styAbs⟩,
  ⟨.sty, .zp, .f2 .styZp⟩,
  ⟨.sty, .zpx, .f2 .styZpx⟩]

/-- Rows of the mnemonics in T (R86): default opcode bytes 0x92 to 0x97. -/
def rowsT : List Row := [
  ⟨.tax, .imp, .f1 .tax⟩,
  ⟨.tay, .imp, .f1 .tay⟩,
  ⟨.tsx, .imp, .f1 .tsx⟩,
  ⟨.txa, .imp, .f1 .txa⟩,
  ⟨.txs, .imp, .f1 .txs⟩,
  ⟨.tya, .imp, .f1 .tya⟩]

/-- The 151 legal pairs in the order of rule R86: mnemonics alphabetically, modes in the order of rule R82. -/
def rows : List Row :=
  rowsA ++ (rowsB ++ (rowsC ++ (rowsD ++ (rowsE ++ (rowsI ++ (rowsJ ++ (rowsL ++ (rowsN ++ (rowsO ++ (rowsP ++ (rowsR ++ (rowsS ++ (rowsT)))))))))))))

/-- The default OPCODE_MAP: the rows numbered consecutively from 0x01, so 0x01 to 0x97 (R86, D2; log 1). -/
def OpcodeMap.standard : OpcodeMap := (List.range 151).map fun k => BitVec.ofNat 8 (k + 1)

/-- The row of an opcode byte: `OPCODE_MAP⁻¹(opc)`, or none where the byte is unsupported (R89, R123). -/
def lookupRow (m : OpcodeMap) (opc : Byte) : Option Row := (m.zip rows).lookup opc

/-- The decoder of rule R123: a byte to its (mnemonic, mode) pair, or unsupported. -/
def decodeOpcode (m : OpcodeMap) (opc : Byte) : Option (Mnemonic × Mode) :=
  (lookupRow m opc).map fun r => (r.mnemonic, r.mode)

/-- The opcode byte of a pair: `OPCODE_MAP(mnemonic, mode)` (R86, R96). -/
def opcodeOf (m : OpcodeMap) (mn : Mnemonic) (md : Mode) : Option Byte :=
  ((m.zip rows).find? fun e => e.2.mnemonic == mn && e.2.mode == md).map (·.1)

/-- Why the decoder rejects bytes. -/
inductive DecodeError where
  | noBytes                        -- nothing to decode
  | unsupportedOpcode (opc : Byte) -- the byte is not in OPCODE_MAP (R89)
  | truncated (opc : Byte)         -- the byte sequence ends before the opcode's operand bytes
deriving DecidableEq, Repr

/-- The instruction of a form from the bytes after its opcode, and the bytes left over (R81, R87); none where there are
too few. -/
def Form.assemble : Form → List Byte → Option (Instr × List Byte)
  | .f1 i, rest => some (i, rest)
  | .f2 k, b :: rest => some (k b, rest)
  | .f3 k, hi :: lo :: rest => some (k (cat16 hi lo), rest)
  | .f2 _, [] => none
  | .f3 _, [] => none
  | .f3 _, [_] => none

/-- Decode the instruction at the head of a byte sequence; the answer holds the bytes after it (R80, R88). Total: every
other sequence is rejected by name. -/
def decodeWith (m : OpcodeMap) : List Byte → Except DecodeError (Instr × List Byte)
  | [] => .error .noBytes
  | opc :: rest =>
    match lookupRow m opc with
    | none => .error (.unsupportedOpcode opc)
    | some r =>
      match r.form.assemble rest with
      | some d => .ok d
      | none => .error (.truncated opc)

/-- The bytes of an instruction: its opcode byte, then its operand bytes, high byte first (R96). Where the map gives the
pair no byte (no well-formed map) there is no encoding: no bytes. -/
def encodeWith (m : OpcodeMap) (i : Instr) : List Byte :=
  match opcodeOf m i.mnemonic i.mode with
  | some opc => opc :: i.operand.bytes
  | none => []

/-- The decoder under the default OPCODE_MAP. -/
def decode (bytes : List Byte) : Except DecodeError (Instr × List Byte) := decodeWith OpcodeMap.standard bytes

/-- The encoder under the default OPCODE_MAP. -/
def encode (i : Instr) : List Byte := encodeWith OpcodeMap.standard i

/-- The displacement byte of a branch at `addr` to `target`: `target - (addr + 2)`, where it lies in -128 to 127 (R96,
D21); none where it does not. Taking the difference modulo 65536, as R138 wraps, before the range check is a DESIGN CHOICE
(log 29, unsafe): R96, D21 and R11 write no reduction. -/
def branchDisplacement (addr target : Word) : Option Byte :=
  let d := (target - (addr + 2)).toInt
  if -128 ≤ d ∧ d ≤ 127 then some (BitVec.ofInt 8 d) else none

/-- The bytes, lowest address first, of an instruction numbered as spec/opcode_table.json numbers it: bit 0 is the least
significant bit of the first byte, every bit above `nbits` is 0, and the longest instruction has three bytes (R80). -/
def tableBytes (nbits w : Nat) : List Byte :=
  let v := w % 2 ^ nbits
  [BitVec.ofNat 8 v, BitVec.ofNat 8 (v / 256), BitVec.ofNat 8 (v / 65536)]

/-- What the decoder reads from such an instruction. -/
def decodeTableWord (nbits w : Nat) : Option Instr :=
  match decode (tableBytes nbits w) with
  | .ok (i, _) => some i
  | .error _ => none

end Sys2Proof
end

