-- ==== Sys2Proof/Machine/Defaults.lean ====
section
/-! DEFINITION. The default of each parameter (R9, 00_scope.md; spec/92_eei_decisions.md "Parameters a model takes"). They
stand apart from State so that a test may correct one without touching State. -/

namespace Sys2Proof.Machine

/-- The default of PTR_BYTE_ORDER (R56, D4; log 3, unsafe for a claim that fixes it). -/
def defaultPtrByteOrder : PtrByteOrder := .highFirst

/-- The default of PLA_SETS_NZ (R229, D11; log 4, unsafe for a claim that fixes it). -/
def defaultPlaSetsNZ : Bool := false

/-- The default of LOAD_ORIGIN (R293, D14; log 5, unsafe for a claim that fixes it). -/
def defaultLoadOrigin : Word := 0

/-- Every parameter at its default (R9). -/
def defaultParams : Params :=
  ⟨OpcodeMap.standard, defaultPtrByteOrder, defaultPlaSetsNZ, defaultLoadOrigin⟩

/-- What a byte that nothing has written reads as: memory is zero-filled at power-on (R53). -/
def unlistedByte : Byte := 0

end Sys2Proof.Machine
end

