-- ==== Sys2Proof/Machine/State.lean ====
section
/-! DEFINITION. The machine's state as plain data (10_state.md, 20_memory.md), the reasons a step can stop, and the state
after reset. -/

namespace Sys2Proof.Machine

/-- The kind of the CORE's one exception; it has a name and no number (R260, D13). -/
inductive FaultKind where
  | unsupportedOpcode
deriving DecidableEq, Repr

/-- The record of a fault: its kind, the offending byte and the address it was fetched from (R260). -/
structure FaultInfo where
  kind : FaultKind
  byte : Byte
  pc : Word
deriving DecidableEq, Repr

/-- The run status (R39). -/
inductive RunStatus where
  | running
  | faulted (info : FaultInfo)
deriving DecidableEq, Repr

/-- The flags of SR, the reserved bit R among them (R27). -/
inductive Flag where
  | n | v | b | r | d | i | z | c
deriving DecidableEq, Repr

/-- The memory array (R50) as (address, byte) pairs; its canonical form is `Memory.wf` (Sys2Proof/Machine/Ops.lean). -/
abbrev Memory := List Host.Cell

/-- The state of the CORE. `everReset` and `params` are the model's own fields (logs 7 and 2). -/
structure State where
  /-- The accumulator (R21). -/
  a : Byte
  /-- Index register X (R22). -/
  x : Byte
  /-- Index register Y (R23). -/
  y : Byte
  /-- The stack pointer, an offset into the stack page (R24). -/
  sp : Byte
  /-- The program counter (R25). -/
  pc : Word
  /-- The status register, whose bits are the flags (R26, R27). -/
  sr : Byte
  /-- The memory array (R50). -/
  mem : Memory
  /-- The run status (R39). -/
  status : RunStatus
  /-- Whether `reset()` has been requested at least once (R42, R292). -/
  everReset : Bool
  /-- The parameters (R9). -/
  params : Params
deriving DecidableEq, Repr

/-- Why the machine stops. -/
inductive Fault where
  /-- Raised by `step` alone: the status is already `Faulted`, so there is no step until `reset()` (R39, R261). The
  UnsupportedOpcode fault itself is taken as a next state. Safe: the hardware does not go on either. -/
  | stopped (info : FaultInfo)
deriving DecidableEq, Repr

/-- Why the machine has no meaning to give. -/
inductive Refusal where
  /-- Raised by an arm of `exec` whose instruction has no meaning yet. Safe: nothing can be proved of it. -/
  | notModelled (mnemonic : String)
  /-- Raised by `step` alone: `reset()` has not been requested yet, and no step is admitted before it (R42, R292). Safe:
  the registers hold no value the spec gives. -/
  | stepBeforeReset
deriving DecidableEq, Repr

/-- The machine right after reset from power-on: every register zero and the status `Running` (R41, R290), memory
zero-filled (R53), the parameters at their defaults (R9). -/
def State.reset : State where
  a := 0
  x := 0
  y := 0
  sp := 0
  pc := 0
  sr := 0
  mem := []
  status := .running
  everReset := true
  params := defaultParams

end Sys2Proof.Machine
end

