-- ==== Sys2Proof/Machine/Flags.lean ====
section
/-! DEFINITION. The bits of SR (R27, 10_state.md) and the ALU: every result and flag computation of
40_fetch_decode_addressing.md section 5. -/

namespace Sys2Proof.Machine

/-- The bit of SR that holds a flag (R27): Break is bit 5 and the reserved bit is bit 4 (C2). -/
def Flag.bit : Flag → Nat
  | .n => 7 | .v => 6 | .b => 5 | .r => 4 | .d => 3 | .i => 2 | .z => 1 | .c => 0

/-- A flag's mask (R27). -/
def Flag.mask (f : Flag) : Byte := 1 <<< f.bit

/-- Read one flag of SR (R12, R26). -/
def getFlag (f : Flag) (sr : Byte) : Bool := sr.getLsbD f.bit

/-- Write one flag of SR and leave the others (R28). -/
def setFlag (f : Flag) (on : Bool) (sr : Byte) : Byte := if on then sr ||| f.mask else sr &&& ~~~f.mask

/-- Bit 7 of a byte: its sign bit (R10). -/
def bit7 (v : Byte) : Bool := v.getLsbD 7

/-- `setZN(v)` (R140). -/
def setZN (v : Byte) (sr : Byte) : Byte := setFlag .n (bit7 v) (setFlag .z (v == 0) sr)

/-- What the adder returns: result, carry out, overflow (R141). -/
structure Sum where
  r : Byte
  c : Bool
  v : Bool
deriving DecidableEq, Repr

/-- `add8(a, m, cin)` (R141). -/
def add8 (a m : Byte) (cin : Bool) : Sum :=
  let s : Nat := a.toNat + m.toNat + cin.toNat
  let r : Byte := BitVec.ofNat 8 s
  { r := r, c := decide (s > 255), v := bit7 (~~~(a ^^^ m) &&& (a ^^^ r)) }

/-- `sub8(a, m, cin) = add8(a, ~m, cin)` (R142). -/
def sub8 (a m : Byte) (cin : Bool) : Sum := add8 a (~~~m) cin

/-- `cmp8(r, m)`: Carry, Zero and Negative of the comparison (R143). -/
def cmp8 (r m : Byte) (sr : Byte) : Byte :=
  let d : Byte := r - m
  setFlag .n (bit7 d) (setFlag .z (r == m) (setFlag .c (decide (m.toNat ≤ r.toNat)) sr))

/-- What the shifter returns: result and the bit shifted out (R144). -/
structure Shifted where
  r : Byte
  c : Bool
deriving DecidableEq, Repr

/-- A carry as the bit shifted in. -/
def carryBit (c : Bool) : Byte := if c then 1 else 0

/-- `asl8(v)`; a 0 is shifted in (R144, G11; log 12). -/
def asl8 (v : Byte) : Shifted := ⟨v <<< 1, v.getLsbD 7⟩

/-- `lsr8(v)`; a 0 is shifted in (R144, G11; log 12). -/
def lsr8 (v : Byte) : Shifted := ⟨v >>> 1, v.getLsbD 0⟩

/-- `rol8(v, c)` (R144). -/
def rol8 (v : Byte) (c : Bool) : Shifted := ⟨(v <<< 1) ||| carryBit c, v.getLsbD 7⟩

/-- `ror8(v, c)` (R144). -/
def ror8 (v : Byte) (c : Bool) : Shifted := ⟨(v >>> 1) ||| (carryBit c <<< 7), v.getLsbD 0⟩

/-- `inc8(v) = (v + 1) mod 256` (R145). -/
def inc8 (v : Byte) : Byte := v + 1

/-- `dec8(v) = (v - 1) mod 256` (R145). -/
def dec8 (v : Byte) : Byte := v - 1

/-- BIT's flags: N and V from the operand's bits 7 and 6, Z from `A & m` (R210). -/
def bitTest (a m : Byte) (sr : Byte) : Byte :=
  setFlag .z (a &&& m == 0) (setFlag .v (m.getLsbD 6) (setFlag .n (bit7 m) sr))

end Sys2Proof.Machine
end

