-- ==== Sys2Proof/Machine/Ops.lean ====
section
/-! DEFINITION. The named operations over memory, registers, the stack and the run status: 20_memory.md, the fetch unit of
40_fetch_decode_addressing.md, the one exception of 60_exceptions.md and reset of 70_reset_and_hazards.md. -/

namespace Sys2Proof.Machine

/-! ### The memory array -/

/-- The byte at an address (R50, R54). -/
def Memory.read : Memory → Nat → Byte
  | [], _ => unlistedByte
  | (k, u) :: rest, n => if n = k then u else Memory.read rest n

/-- Memory without a listing of an address. -/
def Memory.erase (m : Memory) (n : Nat) : Memory := m.filter fun cell => cell.1 != n

/-- List a byte before the first higher address. -/
def Memory.insert : Memory → Nat → Byte → Memory
  | [], n, v => [(n, v)]
  | (k, u) :: rest, n, v => if n < k then (n, v) :: (k, u) :: rest else (k, u) :: Memory.insert rest n v

/-- Store a byte (R50, R54); a byte that an unlisted address already reads as is not listed. -/
def Memory.write (m : Memory) (n : Nat) (v : Byte) : Memory :=
  if v = unlistedByte then m.erase n else (m.erase n).insert n v

/-- The canonical form from an address on: addresses rise, lie in the 65,536 of the array (R51), and no listed byte is what
an unlisted one reads as. -/
def Memory.wfFrom : Nat → Memory → Bool
  | _, [] => true
  | lo, (k, u) :: rest => decide (lo ≤ k) && decide (k < 65536) && u != unlistedByte && Memory.wfFrom (k + 1) rest

/-- The canonical form, so that equal memories are equal data. -/
def Memory.wf (m : Memory) : Bool := Memory.wfFrom 0 m

/-! ### One-byte accesses and register flags -/

/-- `MemRead(addr, 1)` (R13, R54). -/
def State.readMem (s : State) (addr : Word) : Byte := s.mem.read addr.toNat

/-- `MemWrite(addr, 1, v)` (R13, R54). Every byte is writable (R52). -/
def State.writeMem (s : State) (addr : Word) (v : Byte) : State := { s with mem := s.mem.write addr.toNat v }

/-- Store bytes at increasing addresses from an address on, modulo 65536 (R80). -/
def State.storeBytes (s : State) (addr : Word) : List Byte → State
  | [] => s
  | b :: rest => (s.writeMem addr b).storeBytes (addr + 1) rest

/-- `SR.f` (R12). -/
def State.flag (s : State) (f : Flag) : Bool := getFlag f s.sr

/-- `SR.f <- on` (R12). -/
def State.setFlag (s : State) (f : Flag) (on : Bool) : State := { s with sr := Machine.setFlag f on s.sr }

/-- `setZN(v)` on the machine's SR (R140). -/
def State.setZN (s : State) (v : Byte) : State := { s with sr := Machine.setZN v s.sr }

/-- `A <- v; setZN(v)` (R140), the end of every instruction whose result goes to A and that writes only Z and N. -/
def loadA (v : Byte) (s : State) : State := ({ s with a := v } : State).setZN v

/-- `X <- v; setZN(v)` (R140). -/
def loadX (v : Byte) (s : State) : State := ({ s with x := v } : State).setZN v

/-- `Y <- v; setZN(v)` (R140). -/
def loadY (v : Byte) (s : State) : State := ({ s with y := v } : State).setZN v

/-- `Ptr16(p, s)`: the 16-bit pointer whose first byte is at `p` and second at `q` (R125, R56). -/
def State.ptr16 (s : State) (p q : Word) : Word :=
  match s.params.ptrByteOrder with
  | .highFirst => cat16 (s.readMem p) (s.readMem q)
  | .lowFirst => cat16 (s.readMem q) (s.readMem p)

/-! ### The stack -/

/-- The address SP designates: `0x0100 + SP`, in the stack page (R24). -/
def stackAddr (sp : Byte) : Word := 0x0100 + zext16 sp

/-- `Push(v)`: store, then move SP down, wrapping modulo 256 (R62; direction D7, log 13). -/
def State.push (s : State) (v : Byte) : State := { s.writeMem (stackAddr s.sp) v with sp := s.sp - 1 }

/-- `Pull()`: move SP up, wrapping modulo 256, then read (R63; direction D7, log 13). -/
def State.pull (s : State) : Byte × State := (s.readMem (stackAddr (s.sp + 1)), { s with sp := s.sp + 1 })

/-- Push a word, high byte first (R57). -/
def State.pushWord (s : State) (w : Word) : State := (s.push (hi8 w)).push (lo8 w)

/-- Pull a word, low byte first (R57). -/
def State.pullWord (s : State) : Word × State :=
  let (lo, s1) := s.pull
  let (hi, s2) := s1.pull
  (cat16 hi lo, s2)

/-! ### The fetch unit -/

/-- `FetchByte()`: the byte at PC; PC advances by one, wrapping modulo 65536 (R120). -/
def State.fetchByte (s : State) : Byte × State := (s.readMem s.pc, { s with pc := s.pc + 1 })

/-- Fetch the opcode byte and the operand bytes its mode takes (R120 to R123): the instruction, and the state in which PC
points past all of it (R121). None where the opcode byte is unsupported. -/
def State.fetchInstr (s : State) : Option (Instr × State) :=
  let (opc, s1) := s.fetchByte
  match lookupRow s.params.opcodeMap opc with
  | none => none
  | some r =>
    match r.form with
    | .f1 i => some (i, s1)
    | .f2 k =>
      let (b, s2) := s1.fetchByte
      some (k b, s2)
    | .f3 k =>
      let (hi, s2) := s1.fetchByte
      let (lo, s3) := s2.fetchByte
      some (k (cat16 hi lo), s3)

/-! ### The one exception, and the only way out of it -/

/-- Taking UnsupportedOpcode at the instruction PC points to: no register and no memory byte is written, PC stays at the
byte, and the run status becomes `Faulted` with the record (R260, R261; log 8). There is no other trap entry (R266). -/
def State.raiseUnsupportedOpcode (s : State) : State :=
  { s with status := .faulted ⟨.unsupportedOpcode, s.readMem s.pc, s.pc⟩ }

/-- `reset()`: every register zero, the status `Running`, memory unchanged (R41, R290). It is the only return from the
fault (R39); the CORE has no return instruction from it (R267). -/
def State.doReset (s : State) : State :=
  { s with a := 0, x := 0, y := 0, sp := 0, pc := 0, sr := 0, status := .running, everReset := true }

/-- The machine at power-on, before the first `reset()`: memory is zero-filled (R53), the registers hold whatever the
arguments say, because the spec gives them no value (R42; log 7). The spec gives the run status only after `reset()` (R39,
R41); `Running` here is a DESIGN CHOICE (log 27, unsafe). -/
def State.powerOn (a x y sp sr : Byte) (pc : Word) (params : Params) : State :=
  { a, x, y, sp, pc, sr, mem := [], status := .running, everReset := false, params }

/-- Pull SR, then PC: the return RTI makes (R244). No hardware event pushes the frame it pulls (R267). -/
def State.pullStatusAndPc (s : State) : State :=
  let (sr, s1) := s.pull
  let (pc, s2) := { s1 with sr := sr }.pullWord
  { s2 with pc := pc }

end Sys2Proof.Machine
end

