-- ==== Sys2Proof/Machine/Operands.lean ====
section
/-! DEFINITION. The 13 addressing modes (R126 to R139, 40_fetch_decode_addressing.md): what each resolves to, from the
operand the fetch unit has read. Resolution reads registers and pointer bytes and writes nothing (R148). Implied has no
operand (R127), and a control-transfer target is a word (R124). -/

namespace Sys2Proof.Machine

/-- An operand location that is read or written as data (R124). -/
inductive Loc where
  | regA              -- the accumulator
  | mem (ea : Word)   -- the byte at an effective address
  | imm (b : Byte)    -- an immediate byte
deriving DecidableEq, Repr

/-- `Read(op)` (R124). -/
def Loc.read : Loc → State → Byte
  | .regA, s => s.a
  | .mem ea, s => s.readMem ea
  | .imm b, _ => b

/-- `Write(op, v)` (R124). An immediate is never written: no legal pair does so, and no meaning calls this with one
(log 11). -/
def Loc.write : Loc → Byte → State → State
  | .regA, v, s => { s with a := v }
  | .mem ea, v, s => s.writeMem ea v
  | .imm _, _, s => s

/-- Accumulator (R126). -/
def locAcc : Loc := .regA

/-- Immediate (R134). -/
def locImm (b : Byte) : Loc := .imm b

/-- ZeroPage (R128). -/
def locZp (b : Byte) : Loc := .mem (zext16 b)

/-- ZeroPage,X: 8-bit wraparound (R129). -/
def locZpx (b : Byte) (s : State) : Loc := .mem (zext16 (b + s.x))

/-- ZeroPage,Y: 8-bit wraparound (R130). -/
def locZpy (b : Byte) (s : State) : Loc := .mem (zext16 (b + s.y))

/-- Absolute (R131). -/
def locAbs (w : Word) : Loc := .mem w

/-- Absolute,X: 16-bit wraparound (R132). -/
def locAbx (w : Word) (s : State) : Loc := .mem (w + zext16 s.x)

/-- Absolute,Y: 16-bit wraparound (R133). -/
def locAby (w : Word) (s : State) : Loc := .mem (w + zext16 s.y)

/-- The pointer in the zero page at `z`, its successor wrapping in the zero page (R136, R137; D5, log 14). -/
def zpPointer (z : Byte) (s : State) : Word := s.ptr16 (zext16 z) (zext16 (z + 1))

/-- Indirect,X (R136). -/
def locIzx (b : Byte) (s : State) : Loc := .mem (zpPointer (b + s.x) s)

/-- Indirect,Y (R137). -/
def locIzy (b : Byte) (s : State) : Loc := .mem (zpPointer b s + zext16 s.y)

/-- Absolute as a target, for JMP and JSR: the address itself (R131). -/
def targetAbs (w : Word) : Word := w

/-- Indirect, for JMP: the 16-bit value at the pointer, its second byte at `w + 1` with 16-bit carry (R135; D6, log 14). -/
def targetInd (w : Word) (s : State) : Word := s.ptr16 w (w + 1)

/-- Relative: a signed displacement from the address of the next instruction, which PC holds (R138, C1). -/
def targetRel (d : Byte) (s : State) : Word := s.pc + sext16 d

end Sys2Proof.Machine
end

