-- ==== Sys2Proof/Machine/Arith.lean ====
section
/-! DEFINITION. Arithmetic and compare: ADC SBC CMP CPX CPY (41_arith_compare.md). Binary whatever D holds (R150). When a meaning runs, PC already points
past the whole instruction (R14, R121; log 10). -/

namespace Sys2Proof.Machine

/-- ADC's effect with its operand at `op` (R151). -/
def adc (op : Loc) (s : State) : State :=
  let o := add8 s.a (op.read s) (s.flag .c)
  ((({ s with a := o.r } : State).setFlag .c o.c).setFlag .v o.v).setZN o.r

/-- SBC's effect with its operand at `op` (R152). -/
def sbc (op : Loc) (s : State) : State :=
  let o := sub8 s.a (op.read s) (s.flag .c)
  ((({ s with a := o.r } : State).setFlag .c o.c).setFlag .v o.v).setZN o.r

/-- A compare of a register with the operand at `op`: flags only (R143). -/
def compare (reg : Byte) (op : Loc) (s : State) : State := { s with sr := cmp8 reg (op.read s) s.sr }

/-- ADC Absolute (R151, R131). -/
def execAdcAbs (w : Word) (s : State) : Host.Outcome State Fault Refusal :=
  .next (adc (locAbs w) s)

/-- ADC Absolute,X (R151, R132). -/
def execAdcAbx (w : Word) (s : State) : Host.Outcome State Fault Refusal :=
  .next (adc (locAbx w s) s)

/-- ADC Absolute,Y (R151, R133). -/
def execAdcAby (w : Word) (s : State) : Host.Outcome State Fault Refusal :=
  .next (adc (locAby w s) s)

/-- ADC Immediate (R151, R134). -/
def execAdcImm (b : Byte) (s : State) : Host.Outcome State Fault Refusal :=
  .next (adc (locImm b) s)

/-- ADC Indirect,X (R151, R136). -/
def execAdcIzx (b : Byte) (s : State) : Host.Outcome State Fault Refusal :=
  .next (adc (locIzx b s) s)

/-- ADC Indirect,Y (R151, R137). -/
def execAdcIzy (b : Byte) (s : State) : Host.Outcome State Fault Refusal :=
  .next (adc (locIzy b s) s)

/-- ADC ZeroPage (R151, R128). -/
def execAdcZp (b : Byte) (s : State) : Host.Outcome State Fault Refusal :=
  .next (adc (locZp b) s)

/-- ADC ZeroPage,X (R151, R129). -/
def execAdcZpx (b : Byte) (s : State) : Host.Outcome State Fault Refusal :=
  .next (adc (locZpx b s) s)

/-- SBC Absolute (R152, R131). -/
def execSbcAbs (w : Word) (s : State) : Host.Outcome State Fault Refusal :=
  .next (sbc (locAbs w) s)

/-- SBC Absolute,X (R152, R132). -/
def execSbcAbx (w : Word) (s : State) : Host.Outcome State Fault Refusal :=
  .next (sbc (locAbx w s) s)

/-- SBC Absolute,Y (R152, R133). -/
def execSbcAby (w : Word) (s : State) : Host.Outcome State Fault Refusal :=
  .next (sbc (locAby w s) s)

/-- SBC Immediate (R152, R134). -/
def execSbcImm (b : Byte) (s : State) : Host.Outcome State Fault Refusal :=
  .next (sbc (locImm b) s)

/-- SBC Indirect,X (R152, R136). -/
def execSbcIzx (b : Byte) (s : State) : Host.Outcome State Fault Refusal :=
  .next (sbc (locIzx b s) s)

/-- SBC Indirect,Y (R152, R137). -/
def execSbcIzy (b : Byte) (s : State) : Host.Outcome State Fault Refusal :=
  .next (sbc (locIzy b s) s)

/-- SBC ZeroPage (R152, R128). -/
def execSbcZp (b : Byte) (s : State) : Host.Outcome State Fault Refusal :=
  .next (sbc (locZp b) s)

/-- SBC ZeroPage,X (R152, R129). -/
def execSbcZpx (b : Byte) (s : State) : Host.Outcome State Fault Refusal :=
  .next (sbc (locZpx b s) s)

/-- CMP Absolute (R153, R131). -/
def execCmpAbs (w : Word) (s : State) : Host.Outcome State Fault Refusal :=
  .next (compare s.a (locAbs w) s)

/-- CMP Absolute,X (R153, R132). -/
def execCmpAbx (w : Word) (s : State) : Host.Outcome State Fault Refusal :=
  .next (compare s.a (locAbx w s) s)

/-- CMP Absolute,Y (R153, R133). -/
def execCmpAby (w : Word) (s : State) : Host.Outcome State Fault Refusal :=
  .next (compare s.a (locAby w s) s)

/-- CMP Immediate (R153, R134). -/
def execCmpImm (b : Byte) (s : State) : Host.Outcome State Fault Refusal :=
  .next (compare s.a (locImm b) s)

/-- CMP Indirect,X (R153, R136). -/
def execCmpIzx (b : Byte) (s : State) : Host.Outcome State Fault Refusal :=
  .next (compare s.a (locIzx b s) s)

/-- CMP Indirect,Y (R153, R137). -/
def execCmpIzy (b : Byte) (s : State) : Host.Outcome State Fault Refusal :=
  .next (compare s.a (locIzy b s) s)

/-- CMP ZeroPage (R153, R128). -/
def execCmpZp (b : Byte) (s : State) : Host.Outcome State Fault Refusal :=
  .next (compare s.a (locZp b) s)

/-- CMP ZeroPage,X (R153, R129). -/
def execCmpZpx (b : Byte) (s : State) : Host.Outcome State Fault Refusal :=
  .next (compare s.a (locZpx b s) s)

/-- CPX Absolute (R154, R131). -/
def execCpxAbs (w : Word) (s : State) : Host.Outcome State Fault Refusal :=
  .next (compare s.x (locAbs w) s)

/-- CPX Immediate (R154, R134). -/
def execCpxImm (b : Byte) (s : State) : Host.Outcome State Fault Refusal :=
  .next (compare s.x (locImm b) s)

/-- CPX ZeroPage (R154, R128). -/
def execCpxZp (b : Byte) (s : State) : Host.Outcome State Fault Refusal :=
  .next (compare s.x (locZp b) s)

/-- CPY Absolute (R155, R131). -/
def execCpyAbs (w : Word) (s : State) : Host.Outcome State Fault Refusal :=
  .next (compare s.y (locAbs w) s)

/-- CPY Immediate (R155, R134). -/
def execCpyImm (b : Byte) (s : State) : Host.Outcome State Fault Refusal :=
  .next (compare s.y (locImm b) s)

/-- CPY ZeroPage (R155, R128). -/
def execCpyZp (b : Byte) (s : State) : Host.Outcome State Fault Refusal :=
  .next (compare s.y (locZp b) s)

end Sys2Proof.Machine
end

