-- ==== Sys2Proof/Machine/Control.lean ====
section
/-! DEFINITION. Control transfer: JMP JSR RTS BRK RTI and the branches (47_control.md). When a meaning runs, PC already points
past the whole instruction (R14, R121; log 10). -/

namespace Sys2Proof.Machine

/-- A jump: PC becomes the target (R240). -/
def jump (t : Word) (s : State) : State := { s with pc := t }

/-- A call: the address of its own last byte is pushed, high byte first, and PC becomes the target (R241; D8, log 13). -/
def call (t : Word) (s : State) : State := { s.pushWord (s.pc - 1) with pc := t }

/-- The return from a call: PC becomes one past the address pulled (R242). -/
def ret (s : State) : State :=
  let (w, s1) := s.pullWord
  { s1 with pc := w + 1 }

/-- A conditional branch: PC becomes the target when the flag has the value, and stays otherwise (R245 to R252). -/
def branch (f : Flag) (on : Bool) (d : Byte) (s : State) : State :=
  if s.flag f = on then { s with pc := targetRel d s } else s

/-- JMP Absolute (R240, R131). -/
def execJmpAbs (w : Word) (s : State) : Host.Outcome State Fault Refusal :=
  .next (jump (targetAbs w) s)

/-- JMP Indirect (R240, R135). -/
def execJmpInd (w : Word) (s : State) : Host.Outcome State Fault Refusal :=
  .next (jump (targetInd w s) s)

/-- JSR Absolute (R241, R131). -/
def execJsr (w : Word) (s : State) : Host.Outcome State Fault Refusal :=
  .next (call (targetAbs w) s)

/-- RTS Implied (R242, R127). -/
def execRts (s : State) : Host.Outcome State Fault Refusal :=
  .next (ret s)

/-- BRK Implied (R243, R127). -/
def execBrk (s : State) : Host.Outcome State Fault Refusal :=
  .next (s.setFlag .b true)

/-- RTI Implied (R244, R127). -/
def execRti (s : State) : Host.Outcome State Fault Refusal :=
  .next (s.pullStatusAndPc)

/-- BCC Relative (R245, R138). -/
def execBcc (b : Byte) (s : State) : Host.Outcome State Fault Refusal :=
  .next (branch .c false b s)

/-- BCS Relative (R246, R138). -/
def execBcs (b : Byte) (s : State) : Host.Outcome State Fault Refusal :=
  .next (branch .c true b s)

/-- BEQ Relative (R247, R138). -/
def execBeq (b : Byte) (s : State) : Host.Outcome State Fault Refusal :=
  .next (branch .z true b s)

/-- BNE Relative (R248, R138). -/
def execBne (b : Byte) (s : State) : Host.Outcome State Fault Refusal :=
  .next (branch .z false b s)

/-- BMI Relative (R249, R138). -/
def execBmi (b : Byte) (s : State) : Host.Outcome State Fault Refusal :=
  .next (branch .n true b s)

/-- BPL Relative (R250, R138). -/
def execBpl (b : Byte) (s : State) : Host.Outcome State Fault Refusal :=
  .next (branch .n false b s)

/-- BVC Relative (R251, R138). -/
def execBvc (b : Byte) (s : State) : Host.Outcome State Fault Refusal :=
  .next (branch .v false b s)

/-- BVS Relative (R252, R138). -/
def execBvs (b : Byte) (s : State) : Host.Outcome State Fault Refusal :=
  .next (branch .v true b s)

end Sys2Proof.Machine
end

