-- ==== Sys2Proof/Machine/FlagStack.lean ====
section
/-! DEFINITION. Flag instructions, stack instructions and NOP (46_flags_stack_nop.md). When a meaning runs, PC already points
past the whole instruction (R14, R121; log 10). -/

namespace Sys2Proof.Machine

/-- PLA's effect: A from the stack; Z and N only where PLA_SETS_NZ says so (R229; log 4). -/
def pullA (s : State) : State :=
  let (v, s1) := s.pull
  if s.params.plaSetsNZ then loadA v s1 else { s1 with a := v }

/-- PLP's effect: all 8 bits of SR from the stack (R230; D10, log 13). -/
def pullSr (s : State) : State :=
  let (v, s1) := s.pull
  { s1 with sr := v }

/-- CLC Implied (R220, R127). -/
def execClc (s : State) : Host.Outcome State Fault Refusal :=
  .next (s.setFlag .c false)

/-- SEC Implied (R221, R127). -/
def execSec (s : State) : Host.Outcome State Fault Refusal :=
  .next (s.setFlag .c true)

/-- CLD Implied (R222, R127). -/
def execCld (s : State) : Host.Outcome State Fault Refusal :=
  .next (s.setFlag .d false)

/-- SED Implied (R223, R127). -/
def execSed (s : State) : Host.Outcome State Fault Refusal :=
  .next (s.setFlag .d true)

/-- CLI Implied (R224, R127). -/
def execCli (s : State) : Host.Outcome State Fault Refusal :=
  .next (s.setFlag .i false)

/-- SEI Implied (R225, R127). -/
def execSei (s : State) : Host.Outcome State Fault Refusal :=
  .next (s.setFlag .i true)

/-- CLV Implied (R226, R127). -/
def execClv (s : State) : Host.Outcome State Fault Refusal :=
  .next (s.setFlag .v false)

/-- PHA Implied (R227, R127). -/
def execPha (s : State) : Host.Outcome State Fault Refusal :=
  .next (s.push s.a)

/-- PHP Implied (R228, R127). -/
def execPhp (s : State) : Host.Outcome State Fault Refusal :=
  .next (s.push s.sr)

/-- PLA Implied (R229, R127). -/
def execPla (s : State) : Host.Outcome State Fault Refusal :=
  .next (pullA s)

/-- PLP Implied (R230, R127). -/
def execPlp (s : State) : Host.Outcome State Fault Refusal :=
  .next (pullSr s)

/-- NOP Implied (R231, R127). -/
def execNop (s : State) : Host.Outcome State Fault Refusal :=
  .next (s)

end Sys2Proof.Machine
end

