-- ==== Sys2Proof/Machine/IncDec.lean ====
section
/-! DEFINITION. Increment and decrement: INC DEC INX INY DEX DEY (44_inc_dec.md). When a meaning runs, PC already points
past the whole instruction (R14, R121; log 10). -/

namespace Sys2Proof.Machine

/-- A read-modify-write of `op` by `f`, with Z and N from the result (R147, R200, R201). -/
def modifyWith (f : Byte → Byte) (op : Loc) (s : State) : State :=
  let r := f (op.read s)
  (op.write r s).setZN r

/-- INC Absolute (R200, R131). -/
def execIncAbs (w : Word) (s : State) : Host.Outcome State Fault Refusal :=
  .next (modifyWith inc8 (locAbs w) s)

/-- INC Absolute,X (R200, R132). -/
def execIncAbx (w : Word) (s : State) : Host.Outcome State Fault Refusal :=
  .next (modifyWith inc8 (locAbx w s) s)

/-- INC ZeroPage (R200, R128). -/
def execIncZp (b : Byte) (s : State) : Host.Outcome State Fault Refusal :=
  .next (modifyWith inc8 (locZp b) s)

/-- INC ZeroPage,X (R200, R129). -/
def execIncZpx (b : Byte) (s : State) : Host.Outcome State Fault Refusal :=
  .next (modifyWith inc8 (locZpx b s) s)

/-- DEC Absolute (R201, R131). -/
def execDecAbs (w : Word) (s : State) : Host.Outcome State Fault Refusal :=
  .next (modifyWith dec8 (locAbs w) s)

/-- DEC Absolute,X (R201, R132). -/
def execDecAbx (w : Word) (s : State) : Host.Outcome State Fault Refusal :=
  .next (modifyWith dec8 (locAbx w s) s)

/-- DEC ZeroPage (R201, R128). -/
def execDecZp (b : Byte) (s : State) : Host.Outcome State Fault Refusal :=
  .next (modifyWith dec8 (locZp b) s)

/-- DEC ZeroPage,X (R201, R129). -/
def execDecZpx (b : Byte) (s : State) : Host.Outcome State Fault Refusal :=
  .next (modifyWith dec8 (locZpx b s) s)

/-- INX Implied (R202, R127). -/
def execInx (s : State) : Host.Outcome State Fault Refusal :=
  .next (loadX (inc8 s.x) s)

/-- INY Implied (R203, R127). -/
def execIny (s : State) : Host.Outcome State Fault Refusal :=
  .next (loadY (inc8 s.y) s)

/-- DEX Implied (R204, R127). -/
def execDex (s : State) : Host.Outcome State Fault Refusal :=
  .next (loadX (dec8 s.x) s)

/-- DEY Implied (R205, R127). -/
def execDey (s : State) : Host.Outcome State Fault Refusal :=
  .next (loadY (dec8 s.y) s)

end Sys2Proof.Machine
end

