-- ==== Sys2Proof/Machine/Logic.lean ====
section
/-! DEFINITION. Bit test and logic: BIT AND ORA EOR (45_logic_bit.md). When a meaning runs, PC already points
past the whole instruction (R14, R121; log 10). -/

namespace Sys2Proof.Machine

/-- BIT Absolute (R210, R131). -/
def execBitAbs (w : Word) (s : State) : Host.Outcome State Fault Refusal :=
  .next ({ s with sr := bitTest s.a ((locAbs w).read s) s.sr })

/-- BIT ZeroPage (R210, R128). -/
def execBitZp (b : Byte) (s : State) : Host.Outcome State Fault Refusal :=
  .next ({ s with sr := bitTest s.a ((locZp b).read s) s.sr })

/-- AND Absolute (R211, R131). -/
def execAndAbs (w : Word) (s : State) : Host.Outcome State Fault Refusal :=
  .next (loadA (s.a &&& (locAbs w).read s) s)

/-- AND Absolute,X (R211, R132). -/
def execAndAbx (w : Word) (s : State) : Host.Outcome State Fault Refusal :=
  .next (loadA (s.a &&& (locAbx w s).read s) s)

/-- AND Absolute,Y (R211, R133). -/
def execAndAby (w : Word) (s : State) : Host.Outcome State Fault Refusal :=
  .next (loadA (s.a &&& (locAby w s).read s) s)

/-- AND Immediate (R211, R134). -/
def execAndImm (b : Byte) (s : State) : Host.Outcome State Fault Refusal :=
  .next (loadA (s.a &&& (locImm b).read s) s)

/-- AND Indirect,X (R211, R136). -/
def execAndIzx (b : Byte) (s : State) : Host.Outcome State Fault Refusal :=
  .next (loadA (s.a &&& (locIzx b s).read s) s)

/-- AND Indirect,Y (R211, R137). -/
def execAndIzy (b : Byte) (s : State) : Host.Outcome State Fault Refusal :=
  .next (loadA (s.a &&& (locIzy b s).read s) s)

/-- AND ZeroPage (R211, R128). -/
def execAndZp (b : Byte) (s : State) : Host.Outcome State Fault Refusal :=
  .next (loadA (s.a &&& (locZp b).read s) s)

/-- AND ZeroPage,X (R211, R129). -/
def execAndZpx (b : Byte) (s : State) : Host.Outcome State Fault Refusal :=
  .next (loadA (s.a &&& (locZpx b s).read s) s)

/-- ORA Absolute (R212, R131). -/
def execOraAbs (w : Word) (s : State) : Host.Outcome State Fault Refusal :=
  .next (loadA (s.a ||| (locAbs w).read s) s)

/-- ORA Absolute,X (R212, R132). -/
def execOraAbx (w : Word) (s : State) : Host.Outcome State Fault Refusal :=
  .next (loadA (s.a ||| (locAbx w s).read s) s)

/-- ORA Absolute,Y (R212, R133). -/
def execOraAby (w : Word) (s : State) : Host.Outcome State Fault Refusal :=
  .next (loadA (s.a ||| (locAby w s).read s) s)

/-- ORA Immediate (R212, R134). -/
def execOraImm (b : Byte) (s : State) : Host.Outcome State Fault Refusal :=
  .next (loadA (s.a ||| (locImm b).read s) s)

/-- ORA Indirect,X (R212, R136). -/
def execOraIzx (b : Byte) (s : State) : Host.Outcome State Fault Refusal :=
  .next (loadA (s.a ||| (locIzx b s).read s) s)

/-- ORA Indirect,Y (R212, R137). -/
def execOraIzy (b : Byte) (s : State) : Host.Outcome State Fault Refusal :=
  .next (loadA (s.a ||| (locIzy b s).read s) s)

/-- ORA ZeroPage (R212, R128). -/
def execOraZp (b : Byte) (s : State) : Host.Outcome State Fault Refusal :=
  .next (loadA (s.a ||| (locZp b).read s) s)

/-- ORA ZeroPage,X (R212, R129). -/
def execOraZpx (b : Byte) (s : State) : Host.Outcome State Fault Refusal :=
  .next (loadA (s.a ||| (locZpx b s).read s) s)

/-- EOR Absolute (R213, R131). -/
def execEorAbs (w : Word) (s : State) : Host.Outcome State Fault Refusal :=
  .next (loadA (s.a ^^^ (locAbs w).read s) s)

/-- EOR Absolute,X (R213, R132). -/
def execEorAbx (w : Word) (s : State) : Host.Outcome State Fault Refusal :=
  .next (loadA (s.a ^^^ (locAbx w s).read s) s)

/-- EOR Absolute,Y (R213, R133). -/
def execEorAby (w : Word) (s : State) : Host.Outcome State Fault Refusal :=
  .next (loadA (s.a ^^^ (locAby w s).read s) s)

/-- EOR Immediate (R213, R134). -/
def execEorImm (b : Byte) (s : State) : Host.Outcome State Fault Refusal :=
  .next (loadA (s.a ^^^ (locImm b).read s) s)

/-- EOR Indirect,X (R213, R136). -/
def execEorIzx (b : Byte) (s : State) : Host.Outcome State Fault Refusal :=
  .next (loadA (s.a ^^^ (locIzx b s).read s) s)

/-- EOR Indirect,Y (R213, R137). -/
def execEorIzy (b : Byte) (s : State) : Host.Outcome State Fault Refusal :=
  .next (loadA (s.a ^^^ (locIzy b s).read s) s)

/-- EOR ZeroPage (R213, R128). -/
def execEorZp (b : Byte) (s : State) : Host.Outcome State Fault Refusal :=
  .next (loadA (s.a ^^^ (locZp b).read s) s)

/-- EOR ZeroPage,X (R213, R129). -/
def execEorZpx (b : Byte) (s : State) : Host.Outcome State Fault Refusal :=
  .next (loadA (s.a ^^^ (locZpx b s).read s) s)

end Sys2Proof.Machine
end

