-- ==== Sys2Proof/Machine/Shift.lean ====
section
/-! DEFINITION. Shift and rotate: ASL LSR ROL ROR (42_shift_rotate.md). One read and one write of the operand (R147). When a meaning runs, PC already points
past the whole instruction (R14, R121; log 10). -/

namespace Sys2Proof.Machine

/-- A read-modify-write of `op` by the shifter `f`, which is given the carry as it was before (R147, R170 to R173). -/
def shiftWith (f : Byte → Bool → Shifted) (op : Loc) (s : State) : State :=
  let o := f (op.read s) (s.flag .c)
  ((op.write o.r s).setFlag .c o.c).setZN o.r

/-- ASL's effect (R170). -/
def asl (op : Loc) (s : State) : State := shiftWith (fun v _ => asl8 v) op s

/-- LSR's effect (R171). -/
def lsr (op : Loc) (s : State) : State := shiftWith (fun v _ => lsr8 v) op s

/-- ROL's effect (R172). -/
def rol (op : Loc) (s : State) : State := shiftWith rol8 op s

/-- ROR's effect (R173). -/
def ror (op : Loc) (s : State) : State := shiftWith ror8 op s

/-- ASL Accumulator (R170, R126). -/
def execAslAcc (s : State) : Host.Outcome State Fault Refusal :=
  .next (asl locAcc s)

/-- ASL Absolute (R170, R131). -/
def execAslAbs (w : Word) (s : State) : Host.Outcome State Fault Refusal :=
  .next (asl (locAbs w) s)

/-- ASL Absolute,X (R170, R132). -/
def execAslAbx (w : Word) (s : State) : Host.Outcome State Fault Refusal :=
  .next (asl (locAbx w s) s)

/-- ASL ZeroPage (R170, R128). -/
def execAslZp (b : Byte) (s : State) : Host.Outcome State Fault Refusal :=
  .next (asl (locZp b) s)

/-- ASL ZeroPage,X (R170, R129). -/
def execAslZpx (b : Byte) (s : State) : Host.Outcome State Fault Refusal :=
  .next (asl (locZpx b s) s)

/-- LSR Accumulator (R171, R126). -/
def execLsrAcc (s : State) : Host.Outcome State Fault Refusal :=
  .next (lsr locAcc s)

/-- LSR Absolute (R171, R131). -/
def execLsrAbs (w : Word) (s : State) : Host.Outcome State Fault Refusal :=
  .next (lsr (locAbs w) s)

/-- LSR Absolute,X (R171, R132). -/
def execLsrAbx (w : Word) (s : State) : Host.Outcome State Fault Refusal :=
  .next (lsr (locAbx w s) s)

/-- LSR ZeroPage (R171, R128). -/
def execLsrZp (b : Byte) (s : State) : Host.Outcome State Fault Refusal :=
  .next (lsr (locZp b) s)

/-- LSR ZeroPage,X (R171, R129). -/
def execLsrZpx (b : Byte) (s : State) : Host.Outcome State Fault Refusal :=
  .next (lsr (locZpx b s) s)

/-- ROL Accumulator (R172, R126). -/
def execRolAcc (s : State) : Host.Outcome State Fault Refusal :=
  .next (rol locAcc s)

/-- ROL Absolute (R172, R131). -/
def execRolAbs (w : Word) (s : State) : Host.Outcome State Fault Refusal :=
  .next (rol (locAbs w) s)

/-- ROL Absolute,X (R172, R132). -/
def execRolAbx (w : Word) (s : State) : Host.Outcome State Fault Refusal :=
  .next (rol (locAbx w s) s)

/-- ROL ZeroPage (R172, R128). -/
def execRolZp (b : Byte) (s : State) : Host.Outcome State Fault Refusal :=
  .next (rol (locZp b) s)

/-- ROL ZeroPage,X (R172, R129). -/
def execRolZpx (b : Byte) (s : State) : Host.Outcome State Fault Refusal :=
  .next (rol (locZpx b s) s)

/-- ROR Accumulator (R173, R126). -/
def execRorAcc (s : State) : Host.Outcome State Fault Refusal :=
  .next (ror locAcc s)

/-- ROR Absolute (R173, R131). -/
def execRorAbs (w : Word) (s : State) : Host.Outcome State Fault Refusal :=
  .next (ror (locAbs w) s)

/-- ROR Absolute,X (R173, R132). -/
def execRorAbx (w : Word) (s : State) : Host.Outcome State Fault Refusal :=
  .next (ror (locAbx w s) s)

/-- ROR ZeroPage (R173, R128). -/
def execRorZp (b : Byte) (s : State) : Host.Outcome State Fault Refusal :=
  .next (ror (locZp b) s)

/-- ROR ZeroPage,X (R173, R129). -/
def execRorZpx (b : Byte) (s : State) : Host.Outcome State Fault Refusal :=
  .next (ror (locZpx b s) s)

end Sys2Proof.Machine
end

