-- ==== Sys2Proof/Machine/Transfer.lean ====
section
/-! DEFINITION. Loads, stores and register transfers (43_load_store_transfer.md). When a meaning runs, PC already points
past the whole instruction (R14, R121; log 10). -/

namespace Sys2Proof.Machine

/-- LDA Absolute (R180, R131). -/
def execLdaAbs (w : Word) (s : State) : Host.Outcome State Fault Refusal :=
  .next (loadA ((locAbs w).read s) s)

/-- LDA Absolute,X (R180, R132). -/
def execLdaAbx (w : Word) (s : State) : Host.Outcome State Fault Refusal :=
  .next (loadA ((locAbx w s).read s) s)

/-- LDA Absolute,Y (R180, R133). -/
def execLdaAby (w : Word) (s : State) : Host.Outcome State Fault Refusal :=
  .next (loadA ((locAby w s).read s) s)

/-- LDA Immediate (R180, R134). -/
def execLdaImm (b : Byte) (s : State) : Host.Outcome State Fault Refusal :=
  .next (loadA ((locImm b).read s) s)

/-- LDA Indirect,X (R180, R136). -/
def execLdaIzx (b : Byte) (s : State) : Host.Outcome State Fault Refusal :=
  .next (loadA ((locIzx b s).read s) s)

/-- LDA Indirect,Y (R180, R137). -/
def execLdaIzy (b : Byte) (s : State) : Host.Outcome State Fault Refusal :=
  .next (loadA ((locIzy b s).read s) s)

/-- LDA ZeroPage (R180, R128). -/
def execLdaZp (b : Byte) (s : State) : Host.Outcome State Fault Refusal :=
  .next (loadA ((locZp b).read s) s)

/-- LDA ZeroPage,X (R180, R129). -/
def execLdaZpx (b : Byte) (s : State) : Host.Outcome State Fault Refusal :=
  .next (loadA ((locZpx b s).read s) s)

/-- LDX Absolute (R181, R131). -/
def execLdxAbs (w : Word) (s : State) : Host.Outcome State Fault Refusal :=
  .next (loadX ((locAbs w).read s) s)

/-- LDX Absolute,Y (R181, R133). -/
def execLdxAby (w : Word) (s : State) : Host.Outcome State Fault Refusal :=
  .next (loadX ((locAby w s).read s) s)

/-- LDX Immediate (R181, R134). -/
def execLdxImm (b : Byte) (s : State) : Host.Outcome State Fault Refusal :=
  .next (loadX ((locImm b).read s) s)

/-- LDX ZeroPage (R181, R128). -/
def execLdxZp (b : Byte) (s : State) : Host.Outcome State Fault Refusal :=
  .next (loadX ((locZp b).read s) s)

/-- LDX ZeroPage,Y (R181, R130). -/
def execLdxZpy (b : Byte) (s : State) : Host.Outcome State Fault Refusal :=
  .next (loadX ((locZpy b s).read s) s)

/-- LDY Absolute (R182, R131). -/
def execLdyAbs (w : Word) (s : State) : Host.Outcome State Fault Refusal :=
  .next (loadY ((locAbs w).read s) s)

/-- LDY Absolute,X (R182, R132). -/
def execLdyAbx (w : Word) (s : State) : Host.Outcome State Fault Refusal :=
  .next (loadY ((locAbx w s).read s) s)

/-- LDY Immediate (R182, R134). -/
def execLdyImm (b : Byte) (s : State) : Host.Outcome State Fault Refusal :=
  .next (loadY ((locImm b).read s) s)

/-- LDY ZeroPage (R182, R128). -/
def execLdyZp (b : Byte) (s : State) : Host.Outcome State Fault Refusal :=
  .next (loadY ((locZp b).read s) s)

/-- LDY ZeroPage,X (R182, R129). -/
def execLdyZpx (b : Byte) (s : State) : Host.Outcome State Fault Refusal :=
  .next (loadY ((locZpx b s).read s) s)

/-- STA Absolute (R183, R131). -/
def execStaAbs (w : Word) (s : State) : Host.Outcome State Fault Refusal :=
  .next ((locAbs w).write s.a s)

/-- STA Absolute,X (R183, R132). -/
def execStaAbx (w : Word) (s : State) : Host.Outcome State Fault Refusal :=
  .next ((locAbx w s).write s.a s)

/-- STA Absolute,Y (R183, R133). -/
def execStaAby (w : Word) (s : State) : Host.Outcome State Fault Refusal :=
  .next ((locAby w s).write s.a s)

/-- STA Indirect,X (R183, R136). -/
def execStaIzx (b : Byte) (s : State) : Host.Outcome State Fault Refusal :=
  .next ((locIzx b s).write s.a s)

/-- STA Indirect,Y (R183, R137). -/
def execStaIzy (b : Byte) (s : State) : Host.Outcome State Fault Refusal :=
  .next ((locIzy b s).write s.a s)

/-- STA ZeroPage (R183, R128). -/
def execStaZp (b : Byte) (s : State) : Host.Outcome State Fault Refusal :=
  .next ((locZp b).write s.a s)

/-- STA ZeroPage,X (R183, R129). -/
def execStaZpx (b : Byte) (s : State) : Host.Outcome State Fault Refusal :=
  .next ((locZpx b s).write s.a s)

/-- STX Absolute (R184, R131). -/
def execStxAbs (w : Word) (s : State) : Host.Outcome State Fault Refusal :=
  .next ((locAbs w).write s.x s)

/-- STX ZeroPage (R184, R128). -/
def execStxZp (b : Byte) (s : State) : Host.Outcome State Fault Refusal :=
  .next ((locZp b).write s.x s)

/-- STX ZeroPage,Y (R184, R130). -/
def execStxZpy (b : Byte) (s : State) : Host.Outcome State Fault Refusal :=
  .next ((locZpy b s).write s.x s)

/-- STY Absolute (R185, R131). -/
def execStyAbs (w : Word) (s : State) : Host.Outcome State Fault Refusal :=
  .next ((locAbs w).write s.y s)

/-- STY ZeroPage (R185, R128). -/
def execStyZp (b : Byte) (s : State) : Host.Outcome State Fault Refusal :=
  .next ((locZp b).write s.y s)

/-- STY ZeroPage,X (R185, R129). -/
def execStyZpx (b : Byte) (s : State) : Host.Outcome State Fault Refusal :=
  .next ((locZpx b s).write s.y s)

/-- TAX Implied (R186, R127). -/
def execTax (s : State) : Host.Outcome State Fault Refusal :=
  .next (loadX s.a s)

/-- TAY Implied (R187, R127). -/
def execTay (s : State) : Host.Outcome State Fault Refusal :=
  .next (loadY s.a s)

/-- TXA Implied (R188, R127). -/
def execTxa (s : State) : Host.Outcome State Fault Refusal :=
  .next (loadA s.x s)

/-- TYA Implied (R189, R127). -/
def execTya (s : State) : Host.Outcome State Fault Refusal :=
  .next (loadA s.y s)

/-- TSX Implied (R190, R127). -/
def execTsx (s : State) : Host.Outcome State Fault Refusal :=
  .next (loadX s.sp s)

/-- TXS Implied (R191, R127). -/
def execTxs (s : State) : Host.Outcome State Fault Refusal :=
  .next ({ s with sp := s.x })

end Sys2Proof.Machine
end

