-- ==== Sys2Proof/Machine/Step.lean ====
section
/-! DEFINITION. One step (R122, 40_fetch_decode_addressing.md), and how an instruction is put where the next step fetches
it. -/

namespace Sys2Proof.Machine

/-- One `step()` request (R122): fetch the instruction at PC and execute it, or take UnsupportedOpcode. There is no step in
the `Faulted` status (R39) and none before the first reset (R42, R292). -/
def step (s : State) : Host.Outcome State Fault Refusal :=
  if s.everReset then
    match s.status with
    | .faulted info => .fault (.stopped info)
    | .running =>
      match s.fetchInstr with
      | none => .next s.raiseUnsupportedOpcode
      | some (i, fetched) => exec i fetched
  else .refused .stepBeforeReset

/-- The state with an instruction of spec/opcode_table.json's numbering stored at PC and the machine able to fetch it: it
has been reset and runs, and its opcode map is the table's (log 23). -/
def State.withFetchWord (s : State) (nbits w : Nat) : State :=
  { s.storeBytes s.pc (tableBytes nbits w) with
    status := .running
    everReset := true
    params := { s.params with opcodeMap := OpcodeMap.standard } }

end Sys2Proof.Machine
end

