-- ==== Sys2Proof/Machine/Ports.lean ====
section
/-! DEFINITION. The host's side of the interface (R4, R5, R43, R297): the requests and ports it may use, each only between
two steps (R65), so each is a transition of its own. The status output is the field `status` of State (R4, R39). -/

namespace Sys2Proof.Machine

/-- The 8-bit registers of the host register port (R43); PC is the 16-bit one. -/
inductive Reg8 where
  | a | x | y | sp | sr
deriving DecidableEq, Repr

/-- Read an 8-bit register through the port (R43). -/
def State.readReg (s : State) : Reg8 → Byte
  | .a => s.a
  | .x => s.x
  | .y => s.y
  | .sp => s.sp
  | .sr => s.sr

/-- Write an 8-bit register whole through the port, SR's B and R bits included (R43). -/
def State.writeReg (s : State) (r : Reg8) (v : Byte) : State :=
  match r with
  | .a => { s with a := v }
  | .x => { s with x := v }
  | .y => { s with y := v }
  | .sp => { s with sp := v }
  | .sr => { s with sr := v }

/-- The loader copies an image verbatim to LOAD_ORIGIN onward (R98, R293; past 0xFFFF it wraps, log 25). -/
def State.loadImage (s : State) (image : List Byte) : State := s.storeBytes s.params.loadOrigin image

/-- The entropy source writes one byte to RNG_CELL (R60). -/
def State.writeEntropy (s : State) (v : Byte) : State := s.writeMem Config.rngCell v

/-- What the renderer reads: the 1024 bytes at FB_BASE, which are ordinary memory (R61). -/
def State.framebuffer (s : State) : List Byte :=
  (List.range 1024).map fun k => s.readMem (BitVec.ofNat 16 (Config.fbBase.val + k))

/-- The colour number of each framebuffer byte: its low nibble (R61). -/
def State.colourNumbers (s : State) : List Byte := s.framebuffer.map (· &&& 0x0F)

/-- What the host may do between steps (R4, R297). -/
inductive HostMove where
  | reset
  | step
  | writeReg (r : Reg8) (v : Byte)
  | writePc (w : Word)
  | writeMem (addr : Word) (v : Byte)
  | load (image : List Byte)
  | entropy (v : Byte)
deriving DecidableEq, Repr

/-- One host move. Only `step` can stop; only `reset` writes the run status besides a step (R43, R290). -/
def hostMove (m : HostMove) (s : State) : Host.Outcome State Fault Refusal :=
  match m with
  | .reset => .next s.doReset
  | .step => Machine.step s
  | .writeReg r v => .next (s.writeReg r v)
  | .writePc w => .next { s with pc := w }
  | .writeMem addr v => .next (s.writeMem addr v)
  | .load image => .next (s.loadImage image)
  | .entropy v => .next (s.writeEntropy v)

/-- A sequence of host moves, stopping where one stops. -/
def hostRun : List HostMove → State → Host.Outcome State Fault Refusal
  | [], s => .next s
  | m :: rest, s =>
    match hostMove m s with
    | .next t => hostRun rest t
    | .fault r => .fault r
    | .refused r => .refused r

/-- The moves of a run without a debugger: steps, and entropy writes, at most one between two steps (R297, D15). The first
argument says whether an entropy write may come next. -/
def ownRun : Bool → List HostMove → Bool
  | _, [] => true
  | _, .step :: rest => ownRun true rest
  | true, .entropy _ :: rest => ownRun false rest
  | false, .entropy _ :: _ => false
  | _, .reset :: _ => false
  | _, .writeReg _ _ :: _ => false
  | _, .writePc _ :: _ => false
  | _, .writeMem _ _ :: _ => false
  | _, .load _ :: _ => false

end Sys2Proof.Machine
end

