-- ==== Sys2Proof/Safety.lean ====
section
/-! DEFINITION. What counts as a good run (R296, R261), the invariant of the state, and the terms the claims of
Sys2Proof/Certificates are stated in: the spec's tables and lists written out over numbers, apart from the machine. -/

namespace Sys2Proof.Machine

/-! ### Runs -/

/-- How a run under a HOST_STOP ends (R296). -/
inductive RunEnd where
  | normal (s : State)      -- HOST_STOP holds in the `Running` status
  | bad (s : State)         -- the status is `Faulted`: no postcondition holds of it (R261)
  | refused (r : Refusal)   -- a step before the first reset
  | notYet (s : State)      -- neither, after as many steps as were asked for
deriving DecidableEq, Repr

/-- What the entropy source does between two steps: one byte, or nothing (R60). -/
def State.drawEntropy (s : State) : Option Byte → State
  | none => s
  | some v => s.writeEntropy v

/-- Step as often as there are draws, testing `stop` (HOST_STOP) before each step (R296, D19; log 21). The spec gives no order
to the test and the entropy write of one gap between steps (R60, R296, R297); testing first and drawing after is a DESIGN
CHOICE (log 28, unsafe). -/
def runUntil (stop : State → Bool) : List (Option Byte) → State → RunEnd
  | draws, s =>
    match s.status, stop s, draws with
    | .faulted _, _, _ => .bad s
    | .running, true, _ => .normal s
    | .running, false, [] => .notYet s
    | .running, false, d :: rest =>
      match step (s.drawEntropy d) with
      | .next t => runUntil stop rest t
      | .fault _ => .bad s
      | .refused r => .refused r

/-- A safe run: it ends normally, in a state that meets the postcondition, whatever the entropy source draws. -/
def SafeRun (stop : State → Bool) (post : State → Prop) (k : Nat) (s : State) : Prop :=
  ∀ draws : List (Option Byte), draws.length = k → ∃ t, runUntil stop draws s = .normal t ∧ post t

/-! ### The invariant -/

/-- What a `Faulted` status records is true of the state: the byte at PC, unsupported, at the address PC (R260, R261). -/
def State.recordTrue (s : State) : Prop :=
  ∀ info, s.status = .faulted info →
    info.kind = .unsupportedOpcode ∧ info.pc = s.pc ∧ info.byte = s.readMem s.pc ∧
      info.byte ∉ s.params.opcodeMap

/-- The invariant every step keeps: memory in canonical form, an injective opcode map, and a true fault record. -/
def State.Inv (s : State) : Prop :=
  s.mem.wf = true ∧ s.params.wf = true ∧ s.recordTrue

/-- The state admits a step: it has been reset (R292) and runs (R39). -/
def State.Ready (s : State) : Prop := s.everReset = true ∧ s.status = .running

end Sys2Proof.Machine

namespace Sys2Proof.Claims

open Sys2Proof.Machine

/-! ### Operands, over numbers: the table of rule R139 -/

/-- The value of the two bytes at `p` and `q` as a pointer, in the order PTR_BYTE_ORDER gives (R56). -/
def pointerAt (s : State) (p q : Nat) : Nat :=
  match s.params.ptrByteOrder with
  | .highFirst => (s.mem.read p).toNat * 256 + (s.mem.read q).toNat
  | .lowFirst => (s.mem.read q).toNat * 256 + (s.mem.read p).toNat

/-- The effective address of a data operand in memory (R139), none for the other modes. -/
def effAddr (i : Instr) (s : State) : Option Nat :=
  match i.mode, i.operand with
  | .zp, .byte b => some b.toNat
  | .zpx, .byte b => some ((b.toNat + s.x.toNat) % 256)
  | .zpy, .byte b => some ((b.toNat + s.y.toNat) % 256)
  | .abs, .word w => some w.toNat
  | .abx, .word w => some ((w.toNat + s.x.toNat) % 65536)
  | .aby, .word w => some ((w.toNat + s.y.toNat) % 65536)
  | .izx, .byte b =>
    let z := (b.toNat + s.x.toNat) % 256
    some (pointerAt s z ((z + 1) % 256))
  | .izy, .byte b => some ((pointerAt s b.toNat ((b.toNat + 1) % 256) + s.y.toNat) % 65536)
  | _, _ => none

/-- `Read(op)` of a data operand (R124). -/
def sourceByte (i : Instr) (s : State) : Option Byte :=
  match i.mode, i.operand with
  | .acc, _ => some s.a
  | .imm, .byte b => some b
  | _, _ => (effAddr i s).map s.mem.read

/-- The target of a jump, call or branch (R139), where PC is the address of the next instruction. -/
def targetOf (i : Instr) (s : State) : Option Nat :=
  match i.mode, i.operand with
  | .abs, .word w => some w.toNat
  | .ind, .word w => some (pointerAt s w.toNat ((w.toNat + 1) % 65536))
  | .rel, .byte d => some (if d.toNat < 128 then (s.pc.toNat + d.toNat) % 65536
      else (s.pc.toNat + 65536 + d.toNat - 256) % 65536)
  | _, _ => none

/-! ### Shapes of effects -/

/-- `m'` is `m` but for the byte at `n`, which is `v`. -/
def StoresByte (m m' : Memory) (n : Nat) (v : Byte) : Prop :=
  ∀ k, m'.read k = if k = n then v else m.read k

/-- `sr'` is SR with the named flags at their new values and every other flag as in `sr` (R28). -/
def FlagsAre (sr sr' : Byte) (new : Flag → Option Bool) : Prop :=
  ∀ f, getFlag f sr' = (new f).getD (getFlag f sr)

/-- New values for Z and N: those of a result byte (R140). -/
def znOf (v : Byte) : Flag → Option Bool
  | .z => some (decide (v.toNat = 0))
  | .n => some (decide (128 ≤ v.toNat))
  | _ => none

/-- New values for C, Z and N. -/
def cznOf (c : Bool) (v : Byte) : Flag → Option Bool
  | .c => some c
  | f => znOf v f

/-- New values for C, V, Z and N. -/
def cvznOf (c v : Bool) (r : Byte) : Flag → Option Bool
  | .v => some v
  | f => cznOf c r f

/-- A new value for one flag. -/
def only (f : Flag) (on : Bool) : Flag → Option Bool := fun g => if g = f then some on else none

/-- Two bytes have the same sign bit. -/
def sameSign (a b : Byte) : Bool := decide (128 ≤ a.toNat) == decide (128 ≤ b.toNat)

/-- The stack address of a stack pointer value (R24). -/
def stackByte (sp : Nat) : Nat := 0x0100 + sp % 256

/-- An instruction completes by replacing SR, with these flags new and everything else unchanged. -/
def SetsFlags (i : Instr) (s : State) (new : Flag → Option Bool) : Prop :=
  ∃ sr', exec i s = .next { s with sr := sr' } ∧ FlagsAre s.sr sr' new

/-- An instruction completes by replacing its operand, A or one memory byte, by `r`, with these flags new and everything
else unchanged (R147). -/
def WritesBack (i : Instr) (s : State) (r : Byte) (new : Flag → Option Bool) : Prop :=
  (i.mode = .acc → ∃ sr', exec i s = .next { s with a := r, sr := sr' } ∧ FlagsAre s.sr sr' new) ∧
  (i.mode ≠ .acc → ∃ n m' sr', effAddr i s = some n ∧
    exec i s = .next { s with mem := m', sr := sr' } ∧ StoresByte s.mem m' n r ∧ FlagsAre s.sr sr' new)

/-- An instruction completes by storing `v` at its effective address and doing nothing else. -/
def StoresAt (i : Instr) (s : State) (v : Byte) : Prop :=
  ∃ n m', effAddr i s = some n ∧ exec i s = .next { s with mem := m' } ∧ StoresByte s.mem m' n v

/-- An instruction completes by pushing `v` and doing nothing else (R62). -/
def PushesByte (i : Instr) (s : State) (v : Byte) : Prop :=
  ∃ m', exec i s = .next { s with mem := m', sp := BitVec.ofNat 8 (s.sp.toNat + 255) } ∧
    StoresByte s.mem m' (stackByte s.sp.toNat) v

/-- A conditional branch on a flag (R245 to R252). -/
def BranchesOn (i : Instr) (s : State) (f : Flag) (on : Bool) : Prop :=
  ∃ t, targetOf i s = some t ∧
    exec i s = .next { s with pc := if getFlag f s.sr = on then BitVec.ofNat 16 t else s.pc }

/-! ### Who writes what: the lists of 10_state.md -/

/-- The flags each mnemonic writes (R29 to R36); PLA writes Z and N only where PLA_SETS_NZ is true (R229). -/
def flagsWritten (p : Params) : Mnemonic → List Flag
  | .adc | .sbc => [.c, .v, .z, .n]
  | .cmp | .cpx | .cpy | .asl | .lsr | .rol | .ror => [.c, .z, .n]
  | .lda | .ldx | .ldy | .tax | .tay | .txa | .tya | .tsx | .inc | .dec | .inx | .iny | .dex | .dey | .and | .ora
  | .eor => [.z, .n]
  | .pla => if p.plaSetsNZ then [.z, .n] else []
  | .bit => [.n, .v, .z]
  | .clc | .sec => [.c]
  | .cld | .sed => [.d]
  | .cli | .sei => [.i]
  | .clv => [.v]
  | .brk => [.b]
  | .plp | .rti => [.n, .v, .b, .r, .d, .i, .z, .c]
  | .sta | .stx | .sty | .txs | .pha | .php | .nop | .jmp | .jsr | .rts | .bcc | .bcs | .beq | .bne | .bmi | .bpl
  | .bvc | .bvs => []

/-- The instructions that write A (R21): ASL, LSR, ROL and ROR in Accumulator mode only. -/
def writesA (i : Instr) : Bool :=
  match i.mnemonic with
  | .adc | .sbc | .and | .ora | .eor | .lda | .txa | .tya | .pla => true
  | .asl | .lsr | .rol | .ror => i.mode == .acc
  | _ => false

/-- The instructions that write X (R22). -/
def writesX (i : Instr) : Bool := [Mnemonic.ldx, .tax, .tsx, .inx, .dex].contains i.mnemonic

/-- The instructions that write Y (R23). -/
def writesY (i : Instr) : Bool := [Mnemonic.ldy, .tay, .iny, .dey].contains i.mnemonic

/-- The instructions that write SP (R24). -/
def writesSp (i : Instr) : Bool :=
  [Mnemonic.pha, .php, .pla, .plp, .jsr, .rts, .rti, .txs].contains i.mnemonic

/-- The control transfers, the only instructions that write PC (R121, 47_control.md). -/
def writesPc (i : Instr) : Bool :=
  [Mnemonic.jmp, .jsr, .rts, .rti, .bcc, .bcs, .beq, .bne, .bmi, .bpl, .bvc, .bvs].contains i.mnemonic

/-- The addresses an instruction stores to: the effective address of a store or a read-modify-write, the stack bytes of a
push or a call, nothing otherwise. -/
def storedTo (i : Instr) (s : State) : List Nat :=
  match i.mnemonic with
  | .sta | .stx | .sty | .inc | .dec | .asl | .lsr | .rol | .ror => (effAddr i s).toList
  | .pha | .php => [stackByte s.sp.toNat]
  | .jsr => [stackByte s.sp.toNat, stackByte (s.sp.toNat + 255)]
  | _ => []

/-- The bits of SR that only PHP reads: B, R, D and I (R31 to R34). -/
def storageBits : Byte := 0x3C

/-- Push bytes one after another (R62). -/
def pushAll : List Byte → State → State
  | [], s => s
  | v :: rest, s => pushAll rest (s.push v)

/-- Pull bytes one after another (R63). -/
def pullAll : Nat → State → List Byte × State
  | 0, s => ([], s)
  | k + 1, s =>
    let (v, s1) := s.pull
    let (vs, s2) := pullAll k s1
    (v :: vs, s2)

/-- Fetch bytes one after another with `FetchByte()` (R120). -/
def fetchBytes : Nat → State → List Byte × State
  | 0, s => ([], s)
  | k + 1, s =>
    let (b, s1) := s.fetchByte
    let (bs, s2) := fetchBytes k s1
    (b :: bs, s2)

/-- The three bytes that the fetch unit can read for one instruction, from PC on (R80). -/
def window (s : State) : List Byte := [s.readMem s.pc, s.readMem (s.pc + 1), s.readMem (s.pc + 2)]

end Sys2Proof.Claims
end

