-- ==== Sys2Proof/Certificates/Slice0/Obligations.lean ====
section
/-! DEFINITION. The statements for the provers. `basis` and `cites` of each stand in OBLIGATIONS.json. Where a docstring
names a decision D<n> or a log entry, the clause rests on the spec's own choice, not on its source. -/

open Sys2Proof Sys2Proof.Machine Sys2Proof.Claims

/-! ### Encoding -/

/-- Decoding the bytes of an instruction gives it back, with the bytes after it untouched, under every injective opcode
map and for every operand (R83, R85). -/
def Obligations.DecodeOfEncodeGivesInstrBack : Prop :=
  ∀ (m : OpcodeMap) (i : Instr) (rest : List Byte), OpcodeMap.wf m = true →
    decodeWith m (encodeWith m i ++ rest) = .ok (i, rest)

/-- Every byte sequence that decodes is the encoding of what it decodes to, followed by the bytes left over: no bit of an
instruction is ignored (R81, R90). -/
def Obligations.DecodedBytesAreTheEncoding : Prop :=
  ∀ (m : OpcodeMap) (i : Instr) (bytes rest : List Byte), OpcodeMap.wf m = true →
    decodeWith m bytes = .ok (i, rest) → bytes = encodeWith m i ++ rest

/-- R83's table of operand lengths; the encoder emits, and the decoder consumes, one byte more than the mode's entry. -/
def Obligations.OperandLengthFollowsMode : Prop :=
  (∀ md : Mode, md.operandLength =
    if md ∈ [Mode.acc, .imp] then 0
    else if md ∈ [Mode.imm, .zp, .zpx, .zpy, .rel, .izx, .izy] then 1 else 2) ∧
  ∀ (m : OpcodeMap) (i : Instr), OpcodeMap.wf m = true →
    (encodeWith m i).length = 1 + i.mode.operandLength ∧
    ∀ bytes rest, decodeWith m bytes = .ok (i, rest) → bytes.length = 1 + i.mode.operandLength + rest.length

/-- Two-byte operands are high byte first, in the encoder, the decoder and the fetch unit alike (R55). -/
def Obligations.TwoByteOperandsAreHighFirst : Prop :=
  ∀ (m : OpcodeMap) (i : Instr) (w : Word), OpcodeMap.wf m = true → i.operand = .word w →
    ∃ (opc hi lo : Byte), w.toNat = hi.toNat * 256 + lo.toNat ∧ encodeWith m i = [opc, hi, lo] ∧
      decodeWith m [opc, hi, lo] = .ok (i, []) ∧
      ∀ s : State, s.params.opcodeMap = m → window s = [opc, hi, lo] →
        s.fetchInstr = some (i, { s with pc := s.pc + 3 })

/-- A byte that the opcode map does not assign is rejected by name, whatever follows it; under the default map these are
0x00 and 0x98 to 0xFF (R89; the numbering is D2, log 1). -/
def Obligations.UnassignedOpcodeBytesAreRejected : Prop :=
  (∀ (m : OpcodeMap) (b : Byte) (rest : List Byte), OpcodeMap.wf m = true →
    (b ∉ m ↔ decodeWith m (b :: rest) = .error (.unsupportedOpcode b))) ∧
  ∀ b : Byte, b ∉ OpcodeMap.standard ↔ b.toNat = 0 ∨ 0x98 ≤ b.toNat

/-- The decoder maps onto exactly the legal pairs of rule R84, one byte for each (R85, R123; the pairs are D3, log 12). -/
def Obligations.DecoderCoversExactlyTheLegalPairs : Prop :=
  ∀ (m : OpcodeMap), OpcodeMap.wf m = true →
    (∀ b p, decodeOpcode m b = some p → legalPair p.1 p.2 = true ∧ b ∈ m) ∧
    (∀ mn md, legalPair mn md = true → ∃ b, decodeOpcode m b = some (mn, md) ∧ ∀ b', decodeOpcode m b' = some (mn, md) → b' = b)

/-- Words written out from the default opcode map of rule R86 decode to the instructions they stand for (D2, log 1). -/
def Obligations.OpcodeTableWordsDecode : Prop :=
  decode [0x01, 0x12, 0x34] = .ok (.adcAbs 0x1234, []) ∧
  decode [0x11] = .ok (.aslAcc, []) ∧
  decode [0x16, 0xFE] = .ok (.bcc 0xFE, []) ∧
  decode [0x1A, 0x10] = .ok (.bitZp 0x10, []) ∧
  decode [0x34, 0x12, 0x34] = .ok (.decAbx 0x1234, []) ∧
  decode [0x48, 0x12, 0xFF] = .ok (.jmpInd 0x12FF, []) ∧
  decode [0x4E, 0x10] = .ok (.ldaIzx 0x10, []) ∧
  decode [0x6B] = .ok (.php, []) ∧
  decode [0x89, 0x20] = .ok (.staIzy 0x20, []) ∧
  decode [0x97] = .ok (.tya, [])

/-- The displacement the encoder computes leads a taken BCC to the label it was computed from (R96, R138; range D21). That
BCC is taken on C clear is R245 and G10 (log 12); that the displacement is reduced modulo 65536 is the model's choice (log
29). BCC alone: `BranchesTestOneFlag` states the target of all eight. -/
def Obligations.BranchDisplacementReachesItsLabel : Prop :=
  ∀ (addr target : Word) (d : Byte) (s : State), branchDisplacement addr target = some d → s.pc = addr + 2 →
    s.flag .c = false → exec (.bcc d) s = .next { s with pc := target }

/-! ### Fetch and step -/

/-- `FetchByte()` gives the byte at PC and advances PC by one, 0xFFFF going to 0x0000, and changes nothing else; the opcode
byte and every operand byte of an instruction are read with it (R120). -/
def Obligations.FetchByteReadsAtPcAndAdvances : Prop :=
  (∀ s : State, s.fetchByte = (s.mem.read s.pc.toNat, { s with pc := BitVec.ofNat 16 ((s.pc.toNat + 1) % 65536) })) ∧
  ∀ (s t : State) (i : Instr), s.fetchInstr = some (i, t) →
    t = (fetchBytes i.length s).2 ∧ decodeWith s.params.opcodeMap (fetchBytes i.length s).1 = .ok (i, [])

/-- A step runs the instruction that the bytes at PC decode to, in the state in which PC has moved past all of it and
nothing else has changed (R121, R122). -/
def Obligations.StepRunsDecodedInstruction : Prop :=
  ∀ (s : State) (i : Instr) (rest : List Byte), s.Ready →
    decodeWith s.params.opcodeMap (window s) = .ok (i, rest) →
    step s = exec i { s with pc := BitVec.ofNat 16 (s.pc.toNat + i.length) }

/-- An unsupported byte at PC: the step changes nothing but the run status, which records the byte and its address (R260,
R261; the record and the state are D13, log 8). -/
def Obligations.UnsupportedOpcodeStopsTheCore : Prop :=
  ∀ s : State, s.Ready → s.params.wf = true → s.readMem s.pc ∉ s.params.opcodeMap →
    step s = .next { s with status := .faulted ⟨.unsupportedOpcode, s.readMem s.pc, s.pc⟩ }

/-- No condition but an unsupported opcode is an exception: a running core always completes its step, and it leaves
`Running` exactly when the byte at PC is unsupported (R260, R261, R262). That the fault is a next state with the status
`Faulted` is D13, and its form the model's choice (log 8). -/
def Obligations.OnlyUnsupportedOpcodeIsAnException : Prop :=
  ∀ s : State, s.Ready → s.params.wf = true →
    ∃ t, step s = .next t ∧ (t.status ≠ .running ↔ s.readMem s.pc ∉ s.params.opcodeMap)

/-- Where no step is admitted: a faulted core is stopped (R39, R261; D13, log 8), and a core that was never reset refuses
(R42, R292; D16, log 7). -/
def Obligations.NoStepWhileFaultedOrBeforeReset : Prop :=
  (∀ (s : State) (info : FaultInfo), s.everReset = true → s.status = .faulted info → step s = .fault (.stopped info)) ∧
  ∀ s : State, s.everReset = false → step s = .refused .stepBeforeReset

/-- Nothing but `reset()` makes a faulted core run again (R39, R290; D13, log 8): every other host move that completes
leaves the status as it was, and reset always completes and gives `Running`. -/
def Obligations.OnlyResetLeavesFaulted : Prop :=
  ∀ (s : State) (info : FaultInfo), s.everReset = true → s.status = .faulted info →
    (∀ m t, m ≠ .reset → hostMove m s = .next t → t.status = .faulted info) ∧
    ∃ t, hostMove .reset s = .next t ∧ t.status = .running

/-! ### Reset, power-on and the host's ports -/

/-- The state after reset: every register zero, running (R41; the status is D13, bit 4 of SR is D24), memory zero-filled
(R53), the parameters at the defaults of rule R9 (D2, D4, D11, D14; logs 1, 3, 4, 5). -/
def Obligations.ResetStateIsAllZero : Prop :=
  State.reset.a = 0 ∧ State.reset.x = 0 ∧ State.reset.y = 0 ∧ State.reset.sp = 0 ∧ State.reset.pc = 0 ∧
  State.reset.sr = 0 ∧ State.reset.status = .running ∧ (∀ n, State.reset.mem.read n = 0) ∧
  State.reset.params = ⟨OpcodeMap.standard, .highFirst, false, 0⟩

/-- `reset()` zeroes the registers and runs the core from any state, and changes no memory byte (R290; D13). -/
def Obligations.ResetRequestZeroesRegistersOnly : Prop :=
  ∀ s : State, hostMove .reset s = .next ⟨0, 0, 0, 0, 0, 0, s.mem, .running, true, s.params⟩

/-- Memory is zero-filled at power-on and `reset()` does not change it (R53). -/
def Obligations.PowerOnMemoryIsZeroAndResetKeepsMemory : Prop :=
  (∀ a x y sp sr pc params n, (State.powerOn a x y sp sr pc params).mem.read n = 0) ∧
  ∀ s t : State, hostMove .reset s = .next t → ∀ n, t.mem.read n = s.mem.read n

/-- The entropy source writes RNG_CELL and nothing else, any byte, whatever address the cell has (R60; D15, log 6). -/
def Obligations.EntropyWritesOnlyItsCell : Prop :=
  ∀ (s : State) (v : Byte), ∃ m', hostMove (.entropy v) s = .next { s with mem := m' } ∧
    StoresByte s.mem m' Config.rngCell.toNat v

/-- The loader copies an image verbatim to LOAD_ORIGIN onward and changes nothing else (R98, R293; D14, log 5; addresses
wrap, log 25). -/
def Obligations.LoaderCopiesImageAtOrigin : Prop :=
  ∀ (s : State) (image : List Byte), image.length ≤ 65536 →
    ∃ m', hostMove (.load image) s = .next { s with mem := m' } ∧
      (∀ k (h : k < image.length), m'.read ((s.params.loadOrigin.toNat + k) % 65536) = image[k]) ∧
      ∀ n, (∀ k, k < image.length → n ≠ (s.params.loadOrigin.toNat + k) % 65536) → m'.read n = s.mem.read n

/-! ### Invariants and whole-machine rules -/

/-- Every step keeps the invariant: memory in canonical form, an injective opcode map, and a `Faulted` status that records
the unsupported byte at PC (R51, R85, R260, R261). -/
def Obligations.StepKeepsInvariant : Prop :=
  ∀ s t : State, s.Inv → step s = .next t → t.Inv

/-- The invariant holds right after reset. -/
def Obligations.ResetHasInvariant : Prop := State.reset.Inv

/-- Every host move keeps memory in canonical form (R51) and never touches the parameters; the last is the model's choice
(DESIGN CHOICE, log 2). -/
def Obligations.HostMovesKeepCanonicalMemoryAndParams : Prop :=
  ∀ (m : HostMove) (s t : State), s.mem.wf = true → hostMove m s = .next t → t.mem.wf = true ∧ t.params = s.params

/-- Every instruction completes, on every operand and in every state (R262, R268). -/
def Obligations.EveryInstructionCompletes : Prop :=
  ∀ (i : Instr) (s : State), ∃ t, exec i s = .next t

/-- No instruction changes the run status, the reset history or a parameter (R39, R261; the last two are logs 7 and 2). -/
def Obligations.InstructionsKeepStatusAndParams : Prop :=
  ∀ (i : Instr) (s t : State), exec i s = .next t →
    t.status = s.status ∧ t.everReset = s.everReset ∧ t.params = s.params

/-- An instruction writes only the flags its rule names; the others are left unchanged (R28). -/
def Obligations.OnlyNamedFlagsAreWritten : Prop :=
  ∀ (i : Instr) (s t : State) (f : Flag), exec i s = .next t → f ∉ flagsWritten s.params i.mnemonic →
    getFlag f t.sr = getFlag f s.sr

/-- An instruction writes only the registers that the lists of 10_state.md give it (R21 to R24), and PC only where it is a
control transfer (R121). -/
def Obligations.OnlyListedRegistersAreWritten : Prop :=
  ∀ (i : Instr) (s t : State), exec i s = .next t →
    (writesA i = false → t.a = s.a) ∧ (writesX i = false → t.x = s.x) ∧ (writesY i = false → t.y = s.y) ∧
    (writesSp i = false → t.sp = s.sp) ∧ (writesPc i = false → t.pc = s.pc)

/-- Every byte of memory that an instruction does not store to reads as before (R69, R147, R148). Where an instruction
stores: the stores, R183 to R185 (G6, log 12), at the addresses of R139 (Indirect modes D4 and D5, logs 3 and 14); PHA, PHP
and JSR, R62, R227, R228 and R241, at the stack addresses (D7, log 13). -/
def Obligations.OnlyStoredBytesChange : Prop :=
  ∀ (i : Instr) (s t : State), exec i s = .next t → ∀ n, n ∉ storedTo i s → t.mem.read n = s.mem.read n

/-- B, R, D and I influence no instruction but PHP: flip any of them before another one, and the result is the same but for
those bits of SR (R31 to R34; D10, D23; logs 13 and 16). What PHP pushes is `PushesStoreThenMoveSpDown`. -/
def Obligations.StorageFlagsChangeNothingElse : Prop :=
  ∀ (i : Instr) (s t : State) (k : Byte), i.mnemonic ≠ .php → k &&& ~~~storageBits = 0 → exec i s = .next t →
    ∃ k' : Byte, k' &&& ~~~k = 0 ∧ exec i { s with sr := s.sr ^^^ k } = .next { t with sr := t.sr ^^^ k' }

/-! ### ALU and operands -/

/-- `setZN`, the flag rule of most instructions: Z exactly when the byte is 0, N its bit 7, nothing else (R140). -/
def Obligations.SetZNWritesZeroAndNegativeOnly : Prop :=
  ∀ v sr : Byte, FlagsAre sr (setZN v sr) (znOf v)

/-- `add8`: result modulo 256, carry out, and overflow exactly where the operands share a sign bit and the result's
differs (R141). -/
def Obligations.Add8GivesSumCarryOverflow : Prop :=
  ∀ (a m : Byte) (cin : Bool), ∃ r : Byte,
    add8 a m cin = ⟨r, decide (255 < a.toNat + m.toNat + cin.toNat), sameSign a m && !sameSign a r⟩ ∧
    r.toNat = (a.toNat + m.toNat + cin.toNat) % 256

/-- `add8`'s overflow bit is the signed overflow of the three-term sum (R141's "signed overflow", by inference). -/
def Obligations.Add8OverflowIsSignedOverflow : Prop :=
  ∀ (a m : Byte) (cin : Bool),
    (add8 a m cin).v = decide (a.toInt + m.toInt + cin.toNat < -128 ∨ 127 < a.toInt + m.toInt + cin.toNat)

/-- The zero-page modes wrap in 8 bits and never carry into the high byte; the indexed absolute modes wrap in 16 bits; each
takes its mode's operand bytes (R128, R129, R130, R132, R133). Which of a word's bytes comes first is
`TwoByteOperandsAreHighFirst`. That LDX and STX alone have ZeroPage,Y rests on the legal pairs of R84 (D3, G1; log 12). -/
def Obligations.IndexedAddressesWrap : Prop :=
  ∀ (b : Byte) (w : Word) (s : State),
    (Mode.zp.operandLength = 1 ∧ ∃ ea : Word, locZp b = .mem ea ∧ ea.toNat = b.toNat) ∧
    (Mode.zpx.operandLength = 1 ∧ ∃ ea : Word, locZpx b s = .mem ea ∧ ea.toNat = (b.toNat + s.x.toNat) % 256) ∧
    (Mode.zpy.operandLength = 1 ∧ (∃ ea : Word, locZpy b s = .mem ea ∧ ea.toNat = (b.toNat + s.y.toNat) % 256) ∧
      ∀ i : Instr, i.mode = .zpy → i.mnemonic = .ldx ∨ i.mnemonic = .stx) ∧
    (Mode.abx.operandLength = 2 ∧ ∃ ea : Word, locAbx w s = .mem ea ∧ ea.toNat = (w.toNat + s.x.toNat) % 65536) ∧
    (Mode.aby.operandLength = 2 ∧ ∃ ea : Word, locAby w s = .mem ea ∧ ea.toNat = (w.toNat + s.y.toNat) % 65536)

/-! ### Arithmetic and compare -/

/-- ADC in every mode (R151, R150: D changes nothing; the Indirect modes rest on D5, log 14). -/
def Obligations.AdcAddsWithCarry : Prop :=
  ∀ (i : Instr) (s : State), i.mnemonic = .adc →
    ∃ (m r sr' : Byte), sourceByte i s = some m ∧
      r.toNat = (s.a.toNat + m.toNat + (getFlag .c s.sr).toNat) % 256 ∧
      exec i s = .next { s with a := r, sr := sr' } ∧
      FlagsAre s.sr sr' (cvznOf (decide (255 < s.a.toNat + m.toNat + (getFlag .c s.sr).toNat))
        (sameSign s.a m && !sameSign s.a r) r)

/-- SBC in every mode: a clear carry borrows one more (R152, R142, R150; the Indirect modes rest on D5, log 14). -/
def Obligations.SbcSubtractsWithBorrow : Prop :=
  ∀ (i : Instr) (s : State), i.mnemonic = .sbc →
    ∃ (m r sr' : Byte), sourceByte i s = some m ∧
      r.toNat = (s.a.toNat + 512 - m.toNat - (!getFlag .c s.sr).toNat) % 256 ∧
      exec i s = .next { s with a := r, sr := sr' } ∧
      FlagsAre s.sr sr' (cvznOf (decide (m.toNat + (!getFlag .c s.sr).toNat ≤ s.a.toNat))
        (!sameSign s.a m && !sameSign s.a r) r)

/-- CMP in every mode: C, Z and N of A minus the operand, nothing stored (R153; the Indirect modes rest on D5, log 14). -/
def Obligations.CmpComparesWithA : Prop :=
  ∀ (i : Instr) (s : State), i.mnemonic = .cmp →
    ∃ m : Byte, sourceByte i s = some m ∧
      SetsFlags i s (cznOf (decide (m.toNat ≤ s.a.toNat)) (BitVec.ofNat 8 (s.a.toNat + 256 - m.toNat)))

/-- `cmp8`: Carry where the register is at least the operand, unsigned; Zero where they are equal; Negative from bit 7 of the
wrapped difference; no other flag, so Overflow is kept (R143). -/
def Obligations.Cmp8WritesCarryZeroNegative : Prop :=
  ∀ (r m sr : Byte) (f : Flag), getFlag f (cmp8 r m sr) = match f with
    | .c => decide (m.toNat ≤ r.toNat)
    | .z => decide (r = m)
    | .n => decide (128 ≤ (r.toNat + 256 - m.toNat) % 256)
    | _ => getFlag f sr

/-- CPX and CPY in every mode: `cmp8` of X or Y with the operand (R154, R155, R143). -/
def Obligations.CpxCpyCompareIndexRegisters : Prop :=
  ∀ (i : Instr) (s : State),
    (i.mnemonic = .cpx → ∃ m : Byte, sourceByte i s = some m ∧
      SetsFlags i s (cznOf (decide (m.toNat ≤ s.x.toNat)) (BitVec.ofNat 8 (s.x.toNat + 256 - m.toNat)))) ∧
    (i.mnemonic = .cpy → ∃ m : Byte, sourceByte i s = some m ∧
      SetsFlags i s (cznOf (decide (m.toNat ≤ s.y.toNat)) (BitVec.ofNat 8 (s.y.toNat + 256 - m.toNat))))

/-! ### Shift and rotate -/

/-- ASL and LSR on A or a memory byte: a 0 is shifted in, C is the bit shifted out (R144, R170, R171; the 0 is G11,
log 12). -/
def Obligations.ShiftsFillWithZero : Prop :=
  ∀ (i : Instr) (s : State),
    (i.mnemonic = .asl → ∃ v : Byte, sourceByte i s = some v ∧
      let r : Byte := BitVec.ofNat 8 (v.toNat * 2)
      WritesBack i s r (cznOf (decide (128 ≤ v.toNat)) r)) ∧
    (i.mnemonic = .lsr → ∃ v : Byte, sourceByte i s = some v ∧
      let r : Byte := BitVec.ofNat 8 (v.toNat / 2)
      WritesBack i s r (cznOf (decide (v.toNat % 2 = 1)) r))

/-- ROL and ROR on A or a memory byte: the carry before the instruction is shifted in, C is the bit shifted out (R144,
R172, R173). -/
def Obligations.RotatesGoThroughCarry : Prop :=
  ∀ (i : Instr) (s : State),
    (i.mnemonic = .rol → ∃ v : Byte, sourceByte i s = some v ∧
      let r : Byte := BitVec.ofNat 8 (v.toNat * 2 + (getFlag .c s.sr).toNat)
      WritesBack i s r (cznOf (decide (128 ≤ v.toNat)) r)) ∧
    (i.mnemonic = .ror → ∃ v : Byte, sourceByte i s = some v ∧
      let r : Byte := BitVec.ofNat 8 (v.toNat / 2 + (getFlag .c s.sr).toNat * 128)
      WritesBack i s r (cznOf (decide (v.toNat % 2 = 1)) r))

/-! ### Loads, stores and transfers -/

/-- LDA in every mode (R180; the Indirect modes rest on D5, log 14). -/
def Obligations.LdaLoadsA : Prop :=
  ∀ (i : Instr) (s : State), i.mnemonic = .lda →
    ∃ m sr' : Byte, sourceByte i s = some m ∧ exec i s = .next { s with a := m, sr := sr' } ∧
      FlagsAre s.sr sr' (znOf m)

/-- LDX and LDY in every mode: the index is read before the register is written, and `setZN` of the loaded byte (R181, R182,
R140). -/
def Obligations.LdxLdyLoadIndexRegisters : Prop :=
  ∀ (i : Instr) (s : State),
    (i.mnemonic = .ldx → ∃ m sr' : Byte, sourceByte i s = some m ∧
      exec i s = .next { s with x := m, sr := sr' } ∧ FlagsAre s.sr sr' (znOf m)) ∧
    (i.mnemonic = .ldy → ∃ m sr' : Byte, sourceByte i s = some m ∧
      exec i s = .next { s with y := m, sr := sr' } ∧ FlagsAre s.sr sr' (znOf m))

/-- STA, STX and STY store at the effective address and write no flag (R183 to R185; their meaning is G6, log 12; the
Indirect modes rest on D5, log 14). -/
def Obligations.StoresWriteOneByteAndNoFlag : Prop :=
  ∀ (i : Instr) (s : State),
    (i.mnemonic = .sta → StoresAt i s s.a) ∧ (i.mnemonic = .stx → StoresAt i s s.x) ∧
    (i.mnemonic = .sty → StoresAt i s s.y)

/-- TAX, TAY, TXA, TYA and TSX move a register and apply `setZN` to the value moved (R186 to R190,
R140). -/
def Obligations.TransfersMoveAndSetZN : Prop :=
  ∀ s : State,
    (∃ sr', exec .tax s = .next { s with x := s.a, sr := sr' } ∧ FlagsAre s.sr sr' (znOf s.a)) ∧
    (∃ sr', exec .tay s = .next { s with y := s.a, sr := sr' } ∧ FlagsAre s.sr sr' (znOf s.a)) ∧
    (∃ sr', exec .txa s = .next { s with a := s.x, sr := sr' } ∧ FlagsAre s.sr sr' (znOf s.x)) ∧
    (∃ sr', exec .tya s = .next { s with a := s.y, sr := sr' } ∧ FlagsAre s.sr sr' (znOf s.y)) ∧
    (∃ sr', exec .tsx s = .next { s with x := s.sp, sr := sr' } ∧ FlagsAre s.sr sr' (znOf s.sp))

/-- TXS moves X to SP and writes no flag; NOP does nothing besides PC's advance (R191, R231; G7 and G8, log 12). -/
def Obligations.TxsAndNopWriteNoFlag : Prop :=
  ∀ s : State, exec .txs s = .next { s with sp := s.x } ∧ exec .nop s = .next s

/-! ### Increment and decrement -/

/-- INC and DEC on a memory byte: 8-bit wraparound, Z and N from the result, C and V untouched (R145). -/
def Obligations.IncDecMemoryWraps : Prop :=
  ∀ (i : Instr) (s : State),
    (i.mnemonic = .inc → ∃ v : Byte, sourceByte i s = some v ∧
      let r : Byte := BitVec.ofNat 8 ((v.toNat + 1) % 256)
      WritesBack i s r (znOf r)) ∧
    (i.mnemonic = .dec → ∃ v : Byte, sourceByte i s = some v ∧
      let r : Byte := BitVec.ofNat 8 ((v.toNat + 255) % 256)
      WritesBack i s r (znOf r))

/-- INX, INY, DEX and DEY: 8-bit wraparound, Z and N from the result, C and V untouched (R145). -/
def Obligations.IncDecIndexWraps : Prop :=
  ∀ s : State, ∃ x1 y1 x2 y2 p q u v : Byte,
    x1.toNat = (s.x.toNat + 1) % 256 ∧ y1.toNat = (s.y.toNat + 1) % 256 ∧
    x2.toNat = (s.x.toNat + 255) % 256 ∧ y2.toNat = (s.y.toNat + 255) % 256 ∧
    exec .inx s = .next { s with x := x1, sr := p } ∧ FlagsAre s.sr p (znOf x1) ∧
    exec .iny s = .next { s with y := y1, sr := q } ∧ FlagsAre s.sr q (znOf y1) ∧
    exec .dex s = .next { s with x := x2, sr := u } ∧ FlagsAre s.sr u (znOf x2) ∧
    exec .dey s = .next { s with y := y2, sr := v } ∧ FlagsAre s.sr v (znOf y2)

/-! ### Bit test and logic -/

/-- BIT in both modes: N and V from the operand's bits 7 and 6, Z from `A & operand`, A unchanged (R210). -/
def Obligations.BitTestsOperand : Prop :=
  ∀ (i : Instr) (s : State), i.mnemonic = .bit →
    ∃ m : Byte, sourceByte i s = some m ∧
      SetsFlags i s (fun f => match f with
        | .n => some (decide (128 ≤ m.toNat))
        | .v => some (decide (64 ≤ m.toNat % 128))
        | .z => some (decide (s.a.toNat &&& m.toNat = 0))
        | _ => none)

/-- AND, ORA and EOR in every mode, bit by bit, with Z and N from the result (R211 to R213, R146; their meaning is G3 to
G5, log 12; the Indirect modes rest on D5, log 14). -/
def Obligations.LogicActsBitByBit : Prop :=
  ∀ (i : Instr) (s : State) (g : Bool → Bool → Bool),
    (i.mnemonic = .and ∧ g = (· && ·)) ∨ (i.mnemonic = .ora ∧ g = (· || ·)) ∨ (i.mnemonic = .eor ∧ g = (· != ·)) →
    ∃ m r sr' : Byte, sourceByte i s = some m ∧ exec i s = .next { s with a := r, sr := sr' } ∧
      FlagsAre s.sr sr' (znOf r) ∧ ∀ k, k < 8 → r.getLsbD k = g (s.a.getLsbD k) (m.getLsbD k)

/-! ### Flag and stack instructions -/

/-- CLC, SEC, CLD, SED, CLI, SEI and CLV set or clear exactly the named flag (R220 to R226; which flag a mnemonic names is
G9, log 12). -/
def Obligations.FlagInstructionsWriteOneFlag : Prop :=
  ∀ s : State, SetsFlags .clc s (only .c false) ∧ SetsFlags .sec s (only .c true) ∧
    SetsFlags .cld s (only .d false) ∧ SetsFlags .sed s (only .d true) ∧
    SetsFlags .cli s (only .i false) ∧ SetsFlags .sei s (only .i true) ∧ SetsFlags .clv s (only .v false)

/-- PHA and PHP store A, or SR exactly as it stands, at 0x0100 + SP and move SP down, wrapping (R62, R227, R228; D7 and
D10, log 13). -/
def Obligations.PushesStoreThenMoveSpDown : Prop :=
  ∀ s : State, PushesByte .pha s s.a ∧ PushesByte .php s s.sr

/-- PLA moves SP up, wrapping, and loads A from there; Z and N are written exactly where PLA_SETS_NZ is true (R63, R229;
D7 and D11, logs 13 and 4). -/
def Obligations.PlaPullsA : Prop :=
  ∀ s : State, ∃ v sr' : Byte, v = s.mem.read (stackByte (s.sp.toNat + 1)) ∧
    exec .pla s = .next { s with sp := BitVec.ofNat 8 (s.sp.toNat + 1), a := v, sr := sr' } ∧
    FlagsAre s.sr sr' (if s.params.plaSetsNZ then znOf v else fun _ => none)

/-- PLP moves SP up, wrapping, and writes all 8 bits of SR from there (R63, R230; D7 and D10, log 13). -/
def Obligations.PlpPullsAllOfSr : Prop :=
  ∀ s : State, exec .plp s = .next
    { s with sp := BitVec.ofNat 8 (s.sp.toNat + 1), sr := s.mem.read (stackByte (s.sp.toNat + 1)) }

/-- Up to 256 pushes and as many pulls give the bytes back in reverse order, with SP where it was, from every SP (R232; D7,
log 13). -/
def Obligations.PullsUndoPushesUpToAFullPage : Prop :=
  ∀ (s : State) (vs : List Byte), vs.length ≤ 256 →
    (pullAll vs.length (pushAll vs s)).1 = vs.reverse ∧ (pullAll vs.length (pushAll vs s)).2.sp = s.sp

/-! ### Control transfer -/

/-- JMP sets PC to the target: the operand, or the pointer at it with a 16-bit successor (R240, R131, R135; D4 and D6,
logs 3 and 14). -/
def Obligations.JmpSetsPc : Prop :=
  ∀ (i : Instr) (s : State), i.mnemonic = .jmp →
    ∃ t, targetOf i s = some t ∧ exec i s = .next { s with pc := BitVec.ofNat 16 t }

/-- JSR pushes the address of its last byte, high byte first, and jumps (R241, R57; D7 and D8, log 13). -/
def Obligations.JsrPushesReturnAddressAndJumps : Prop :=
  ∀ (s : State) (w : Word), ∃ m1 m2 : Memory, ∃ hi lo : Byte,
    hi.toNat * 256 + lo.toNat = (s.pc.toNat + 65535) % 65536 ∧
    StoresByte s.mem m1 (stackByte s.sp.toNat) hi ∧ StoresByte m1 m2 (stackByte (s.sp.toNat + 255)) lo ∧
    exec (.jsr w) s = .next { s with mem := m2, sp := BitVec.ofNat 8 (s.sp.toNat + 254), pc := w }

/-- RTS pulls the low byte, then the high byte, and resumes one past the address (R242; D7 and D8, log 13). -/
def Obligations.RtsResumesOnePastPulledAddress : Prop :=
  ∀ s : State, exec .rts s = .next { s with
    sp := BitVec.ofNat 8 (s.sp.toNat + 2)
    pc := BitVec.ofNat 16 ((s.mem.read (stackByte (s.sp.toNat + 2))).toNat * 256 +
      (s.mem.read (stackByte (s.sp.toNat + 1))).toNat + 1) }

/-- RTS after JSR returns to the instruction after the JSR, with every register as before the call, wherever SP and PC are
(R241, R242, C5; D8, log 13). -/
def Obligations.RtsReturnsFromJsr : Prop :=
  ∀ (s : State) (w : Word), ∃ t m', exec (.jsr w) s = .next t ∧ exec .rts t = .next { s with mem := m' }

/-- RTI pulls SR, then the low and the high byte of PC, with no adjustment (R244; D7, D9 and D10, log 13). -/
def Obligations.RtiPullsSrThenPc : Prop :=
  ∀ s : State, exec .rti s = .next { s with
    sp := BitVec.ofNat 8 (s.sp.toNat + 3)
    sr := s.mem.read (stackByte (s.sp.toNat + 1))
    pc := BitVec.ofNat 16 ((s.mem.read (stackByte (s.sp.toNat + 3))).toNat * 256 +
      (s.mem.read (stackByte (s.sp.toNat + 2))).toNat) }

/-- BRK sets the Break flag, bit 5, and goes on: no push, no vector, no stop (R243; D12, log 15). -/
def Obligations.BrkSetsBreakAndContinues : Prop :=
  ∀ s : State, SetsFlags .brk s (only .b true) ∧ Flag.b.bit = 5

/-- The eight branches: PC becomes the signed-displacement target where the flag has the value, and stays otherwise (R138,
R245 to R252; which flag each tests is G10, log 12). -/
def Obligations.BranchesTestOneFlag : Prop :=
  ∀ (s : State) (d : Byte),
    BranchesOn (.bcc d) s .c false ∧ BranchesOn (.bcs d) s .c true ∧
    BranchesOn (.beq d) s .z true ∧ BranchesOn (.bne d) s .z false ∧
    BranchesOn (.bmi d) s .n true ∧ BranchesOn (.bpl d) s .n false ∧
    BranchesOn (.bvs d) s .v true ∧ BranchesOn (.bvc d) s .v false
end

