-- ==== Sys2Proof/Laws/PerInstr.lean ====
section
/-! SUPPORT. The opcode table and the syntax agree, instruction by instruction: one lemma per constructor of Instr. The table
holds exactly one row for the instruction's pair (R84, R85), at a fixed place of rule R86's order, and that row's form makes
the instruction from its operand bytes. -/

namespace Sys2Proof.Laws.Table

/-- A row that stands for an instruction: its pair, and its form applied to the operand bytes gives it back. -/
def RowFits (i : Instr) (r : Row) : Prop :=
  r.mnemonic = i.mnemonic ∧ r.mode = i.mode ∧ ∀ rest, r.form.assemble (i.operand.bytes ++ rest) = some (i, rest)

/-- The table holds a row for the instruction at some place, and no row before it has the same pair. -/
def Statement (i : Instr) : Prop :=
  ∃ k r, rows[k]? = some r ∧ RowFits i r ∧
    rows.findIdx (fun e => e.mnemonic == i.mnemonic && e.mode == i.mode) = k

/-- A word splits into its two bytes and back. -/
theorem cat16_hi8_lo8 (w : Word) : cat16 (hi8 w) (lo8 w) = w := by
  apply BitVec.eq_of_getLsbD_eq
  intro k hk
  simp only [cat16, hi8, lo8, BitVec.getLsbD_append, BitVec.getLsbD_extractLsb']
  split
  · simp [*]
  · have : 8 + (k - 8) = k := by omega
    have h8 : k - 8 < 8 := by omega
    simp [this, h8]

theorem adcAbs (w : Word) : Statement (.adcAbs w) :=
  ⟨0, _, rfl, ⟨rfl, rfl, fun rest => congrArg (fun v => some (Instr.adcAbs v, rest)) (cat16_hi8_lo8 w)⟩, rfl⟩
theorem adcAbx (w : Word) : Statement (.adcAbx w) :=
  ⟨1, _, rfl, ⟨rfl, rfl, fun rest => congrArg (fun v => some (Instr.adcAbx v, rest)) (cat16_hi8_lo8 w)⟩, rfl⟩
theorem adcAby (w : Word) : Statement (.adcAby w) :=
  ⟨2, _, rfl, ⟨rfl, rfl, fun rest => congrArg (fun v => some (Instr.adcAby v, rest)) (cat16_hi8_lo8 w)⟩, rfl⟩
theorem adcImm (b : Byte) : Statement (.adcImm b) := ⟨3, _, rfl, ⟨rfl, rfl, fun _ => rfl⟩, rfl⟩
theorem adcIzx (b : Byte) : Statement (.adcIzx b) := ⟨4, _, rfl, ⟨rfl, rfl, fun _ => rfl⟩, rfl⟩
theorem adcIzy (b : Byte) : Statement (.adcIzy b) := ⟨5, _, rfl, ⟨rfl, rfl, fun _ => rfl⟩, rfl⟩
theorem adcZp (b : Byte) : Statement (.adcZp b) := ⟨6, _, rfl, ⟨rfl, rfl, fun _ => rfl⟩, rfl⟩
theorem adcZpx (b : Byte) : Statement (.adcZpx b) := ⟨7, _, rfl, ⟨rfl, rfl, fun _ => rfl⟩, rfl⟩
theorem andAbs (w : Word) : Statement (.andAbs w) :=
  ⟨8, _, rfl, ⟨rfl, rfl, fun rest => congrArg (fun v => some (Instr.andAbs v, rest)) (cat16_hi8_lo8 w)⟩, rfl⟩
theorem andAbx (w : Word) : Statement (.andAbx w) :=
  ⟨9, _, rfl, ⟨rfl, rfl, fun rest => congrArg (fun v => some (Instr.andAbx v, rest)) (cat16_hi8_lo8 w)⟩, rfl⟩
theorem andAby (w : Word) : Statement (.andAby w) :=
  ⟨10, _, rfl, ⟨rfl, rfl, fun rest => congrArg (fun v => some (Instr.andAby v, rest)) (cat16_hi8_lo8 w)⟩, rfl⟩
theorem andImm (b : Byte) : Statement (.andImm b) := ⟨11, _, rfl, ⟨rfl, rfl, fun _ => rfl⟩, rfl⟩
theorem andIzx (b : Byte) : Statement (.andIzx b) := ⟨12, _, rfl, ⟨rfl, rfl, fun _ => rfl⟩, rfl⟩
theorem andIzy (b : Byte) : Statement (.andIzy b) := ⟨13, _, rfl, ⟨rfl, rfl, fun _ => rfl⟩, rfl⟩
theorem andZp (b : Byte) : Statement (.andZp b) := ⟨14, _, rfl, ⟨rfl, rfl, fun _ => rfl⟩, rfl⟩
theorem andZpx (b : Byte) : Statement (.andZpx b) := ⟨15, _, rfl, ⟨rfl, rfl, fun _ => rfl⟩, rfl⟩
theorem aslAcc : Statement .aslAcc := ⟨16, _, rfl, ⟨rfl, rfl, fun _ => rfl⟩, rfl⟩
theorem aslAbs (w : Word) : Statement (.aslAbs w) :=
  ⟨17, _, rfl, ⟨rfl, rfl, fun rest => congrArg (fun v => some (Instr.aslAbs v, rest)) (cat16_hi8_lo8 w)⟩, rfl⟩
theorem aslAbx (w : Word) : Statement (.aslAbx w) :=
  ⟨18, _, rfl, ⟨rfl, rfl, fun rest => congrArg (fun v => some (Instr.aslAbx v, rest)) (cat16_hi8_lo8 w)⟩, rfl⟩
theorem aslZp (b : Byte) : Statement (.aslZp b) := ⟨19, _, rfl, ⟨rfl, rfl, fun _ => rfl⟩, rfl⟩
theorem aslZpx (b : Byte) : Statement (.aslZpx b) := ⟨20, _, rfl, ⟨rfl, rfl, fun _ => rfl⟩, rfl⟩
theorem bcc (b : Byte) : Statement (.bcc b) := ⟨21, _, rfl, ⟨rfl, rfl, fun _ => rfl⟩, rfl⟩
theorem bcs (b : Byte) : Statement (.bcs b) := ⟨22, _, rfl, ⟨rfl, rfl, fun _ => rfl⟩, rfl⟩
theorem beq (b : Byte) : Statement (.beq b) := ⟨23, _, rfl, ⟨rfl, rfl, fun _ => rfl⟩, rfl⟩
theorem bitAbs (w : Word) : Statement (.bitAbs w) :=
  ⟨24, _, rfl, ⟨rfl, rfl, fun rest => congrArg (fun v => some (Instr.bitAbs v, rest)) (cat16_hi8_lo8 w)⟩, rfl⟩
theorem bitZp (b : Byte) : Statement (.bitZp b) := ⟨25, _, rfl, ⟨rfl, rfl, fun _ => rfl⟩, rfl⟩
theorem bmi (b : Byte) : Statement (.bmi b) := ⟨26, _, rfl, ⟨rfl, rfl, fun _ => rfl⟩, rfl⟩
theorem bne (b : Byte) : Statement (.bne b) := ⟨27, _, rfl, ⟨rfl, rfl, fun _ => rfl⟩, rfl⟩
theorem bpl (b : Byte) : Statement (.bpl b) := ⟨28, _, rfl, ⟨rfl, rfl, fun _ => rfl⟩, rfl⟩
theorem brk : Statement .brk := ⟨29, _, rfl, ⟨rfl, rfl, fun _ => rfl⟩, rfl⟩
theorem bvc (b : Byte) : Statement (.bvc b) := ⟨30, _, rfl, ⟨rfl, rfl, fun _ => rfl⟩, rfl⟩
theorem bvs (b : Byte) : Statement (.bvs b) := ⟨31, _, rfl, ⟨rfl, rfl, fun _ => rfl⟩, rfl⟩
theorem clc : Statement .clc := ⟨32, _, rfl, ⟨rfl, rfl, fun _ => rfl⟩, rfl⟩
theorem cld : Statement .cld := ⟨33, _, rfl, ⟨rfl, rfl, fun _ => rfl⟩, rfl⟩
theorem cli : Statement .cli := ⟨34, _, rfl, ⟨rfl, rfl, fun _ => rfl⟩, rfl⟩
theorem clv : Statement .clv := ⟨35, _, rfl, ⟨rfl, rfl, fun _ => rfl⟩, rfl⟩
theorem cmpAbs (w : Word) : Statement (.cmpAbs w) :=
  ⟨36, _, rfl, ⟨rfl, rfl, fun rest => congrArg (fun v => some (Instr.cmpAbs v, rest)) (cat16_hi8_lo8 w)⟩, rfl⟩
theorem cmpAbx (w : Word) : Statement (.cmpAbx w) :=
  ⟨37, _, rfl, ⟨rfl, rfl, fun rest => congrArg (fun v => some (Instr.cmpAbx v, rest)) (cat16_hi8_lo8 w)⟩, rfl⟩
theorem cmpAby (w : Word) : Statement (.cmpAby w) :=
  ⟨38, _, rfl, ⟨rfl, rfl, fun rest => congrArg (fun v => some (Instr.cmpAby v, rest)) (cat16_hi8_lo8 w)⟩, rfl⟩
theorem cmpImm (b : Byte) : Statement (.cmpImm b) := ⟨39, _, rfl, ⟨rfl, rfl, fun _ => rfl⟩, rfl⟩
theorem cmpIzx (b : Byte) : Statement (.cmpIzx b) := ⟨40, _, rfl, ⟨rfl, rfl, fun _ => rfl⟩, rfl⟩
theorem cmpIzy (b : Byte) : Statement (.cmpIzy b) := ⟨41, _, rfl, ⟨rfl, rfl, fun _ => rfl⟩, rfl⟩
theorem cmpZp (b : Byte) : Statement (.cmpZp b) := ⟨42, _, rfl, ⟨rfl, rfl, fun _ => rfl⟩, rfl⟩
theorem cmpZpx (b : Byte) : Statement (.cmpZpx b) := ⟨43, _, rfl, ⟨rfl, rfl, fun _ => rfl⟩, rfl⟩
theorem cpxAbs (w : Word) : Statement (.cpxAbs w) :=
  ⟨44, _, rfl, ⟨rfl, rfl, fun rest => congrArg (fun v => some (Instr.cpxAbs v, rest)) (cat16_hi8_lo8 w)⟩, rfl⟩
theorem cpxImm (b : Byte) : Statement (.cpxImm b) := ⟨45, _, rfl, ⟨rfl, rfl, fun _ => rfl⟩, rfl⟩
theorem cpxZp (b : Byte) : Statement (.cpxZp b) := ⟨46, _, rfl, ⟨rfl, rfl, fun _ => rfl⟩, rfl⟩
theorem cpyAbs (w : Word) : Statement (.cpyAbs w) :=
  ⟨47, _, rfl, ⟨rfl, rfl, fun rest => congrArg (fun v => some (Instr.cpyAbs v, rest)) (cat16_hi8_lo8 w)⟩, rfl⟩
theorem cpyImm (b : Byte) : Statement (.cpyImm b) := ⟨48, _, rfl, ⟨rfl, rfl, fun _ => rfl⟩, rfl⟩
theorem cpyZp (b : Byte) : Statement (.cpyZp b) := ⟨49, _, rfl, ⟨rfl, rfl, fun _ => rfl⟩, rfl⟩
theorem decAbs (w : Word) : Statement (.decAbs w) :=
  ⟨50, _, rfl, ⟨rfl, rfl, fun rest => congrArg (fun v => some (Instr.decAbs v, rest)) (cat16_hi8_lo8 w)⟩, rfl⟩
theorem decAbx (w : Word) : Statement (.decAbx w) :=
  ⟨51, _, rfl, ⟨rfl, rfl, fun rest => congrArg (fun v => some (Instr.decAbx v, rest)) (cat16_hi8_lo8 w)⟩, rfl⟩
theorem decZp (b : Byte) : Statement (.decZp b) := ⟨52, _, rfl, ⟨rfl, rfl, fun _ => rfl⟩, rfl⟩
theorem decZpx (b : Byte) : Statement (.decZpx b) := ⟨53, _, rfl, ⟨rfl, rfl, fun _ => rfl⟩, rfl⟩
theorem dex : Statement .dex := ⟨54, _, rfl, ⟨rfl, rfl, fun _ => rfl⟩, rfl⟩
theorem dey : Statement .dey := ⟨55, _, rfl, ⟨rfl, rfl, fun _ => rfl⟩, rfl⟩
theorem eorAbs (w : Word) : Statement (.eorAbs w) :=
  ⟨56, _, rfl, ⟨rfl, rfl, fun rest => congrArg (fun v => some (Instr.eorAbs v, rest)) (cat16_hi8_lo8 w)⟩, rfl⟩
theorem eorAbx (w : Word) : Statement (.eorAbx w) :=
  ⟨57, _, rfl, ⟨rfl, rfl, fun rest => congrArg (fun v => some (Instr.eorAbx v, rest)) (cat16_hi8_lo8 w)⟩, rfl⟩
theorem eorAby (w : Word) : Statement (.eorAby w) :=
  ⟨58, _, rfl, ⟨rfl, rfl, fun rest => congrArg (fun v => some (Instr.eorAby v, rest)) (cat16_hi8_lo8 w)⟩, rfl⟩
theorem eorImm (b : Byte) : Statement (.eorImm b) := ⟨59, _, rfl, ⟨rfl, rfl, fun _ => rfl⟩, rfl⟩
theorem eorIzx (b : Byte) : Statement (.eorIzx b) := ⟨60, _, rfl, ⟨rfl, rfl, fun _ => rfl⟩, rfl⟩
theorem eorIzy (b : Byte) : Statement (.eorIzy b) := ⟨61, _, rfl, ⟨rfl, rfl, fun _ => rfl⟩, rfl⟩
theorem eorZp (b : Byte) : Statement (.eorZp b) := ⟨62, _, rfl, ⟨rfl, rfl, fun _ => rfl⟩, rfl⟩
theorem eorZpx (b : Byte) : Statement (.eorZpx b) := ⟨63, _, rfl, ⟨rfl, rfl, fun _ => rfl⟩, rfl⟩
theorem incAbs (w : Word) : Statement (.incAbs w) :=
  ⟨64, _, rfl, ⟨rfl, rfl, fun rest => congrArg (fun v => some (Instr.incAbs v, rest)) (cat16_hi8_lo8 w)⟩, rfl⟩
theorem incAbx (w : Word) : Statement (.incAbx w) :=
  ⟨65, _, rfl, ⟨rfl, rfl, fun rest => congrArg (fun v => some (Instr.incAbx v, rest)) (cat16_hi8_lo8 w)⟩, rfl⟩
theorem incZp (b : Byte) : Statement (.incZp b) := ⟨66, _, rfl, ⟨rfl, rfl, fun _ => rfl⟩, rfl⟩
theorem incZpx (b : Byte) : Statement (.incZpx b) := ⟨67, _, rfl, ⟨rfl, rfl, fun _ => rfl⟩, rfl⟩
theorem inx : Statement .inx := ⟨68, _, rfl, ⟨rfl, rfl, fun _ => rfl⟩, rfl⟩
theorem iny : Statement .iny := ⟨69, _, rfl, ⟨rfl, rfl, fun _ => rfl⟩, rfl⟩
theorem jmpAbs (w : Word) : Statement (.jmpAbs w) :=
  ⟨70, _, rfl, ⟨rfl, rfl, fun rest => congrArg (fun v => some (Instr.jmpAbs v, rest)) (cat16_hi8_lo8 w)⟩, rfl⟩
theorem jmpInd (w : Word) : Statement (.jmpInd w) :=
  ⟨71, _, rfl, ⟨rfl, rfl, fun rest => congrArg (fun v => some (Instr.jmpInd v, rest)) (cat16_hi8_lo8 w)⟩, rfl⟩
theorem jsr (w : Word) : Statement (.jsr w) :=
  ⟨72, _, rfl, ⟨rfl, rfl, fun rest => congrArg (fun v => some (Instr.jsr v, rest)) (cat16_hi8_lo8 w)⟩, rfl⟩
theorem ldaAbs (w : Word) : Statement (.ldaAbs w) :=
  ⟨73, _, rfl, ⟨rfl, rfl, fun rest => congrArg (fun v => some (Instr.ldaAbs v, rest)) (cat16_hi8_lo8 w)⟩, rfl⟩
theorem ldaAbx (w : Word) : Statement (.ldaAbx w) :=
  ⟨74, _, rfl, ⟨rfl, rfl, fun rest => congrArg (fun v => some (Instr.ldaAbx v, rest)) (cat16_hi8_lo8 w)⟩, rfl⟩
theorem ldaAby (w : Word) : Statement (.ldaAby w) :=
  ⟨75, _, rfl, ⟨rfl, rfl, fun rest => congrArg (fun v => some (Instr.ldaAby v, rest)) (cat16_hi8_lo8 w)⟩, rfl⟩
theorem ldaImm (b : Byte) : Statement (.ldaImm b) := ⟨76, _, rfl, ⟨rfl, rfl, fun _ => rfl⟩, rfl⟩
theorem ldaIzx (b : Byte) : Statement (.ldaIzx b) := ⟨77, _, rfl, ⟨rfl, rfl, fun _ => rfl⟩, rfl⟩
theorem ldaIzy (b : Byte) : Statement (.ldaIzy b) := ⟨78, _, rfl, ⟨rfl, rfl, fun _ => rfl⟩, rfl⟩
theorem ldaZp (b : Byte) : Statement (.ldaZp b) := ⟨79, _, rfl, ⟨rfl, rfl, fun _ => rfl⟩, rfl⟩
theorem ldaZpx (b : Byte) : Statement (.ldaZpx b) := ⟨80, _, rfl, ⟨rfl, rfl, fun _ => rfl⟩, rfl⟩
theorem ldxAbs (w : Word) : Statement (.ldxAbs w) :=
  ⟨81, _, rfl, ⟨rfl, rfl, fun rest => congrArg (fun v => some (Instr.ldxAbs v, rest)) (cat16_hi8_lo8 w)⟩, rfl⟩
theorem ldxAby (w : Word) : Statement (.ldxAby w) :=
  ⟨82, _, rfl, ⟨rfl, rfl, fun rest => congrArg (fun v => some (Instr.ldxAby v, rest)) (cat16_hi8_lo8 w)⟩, rfl⟩
theorem ldxImm (b : Byte) : Statement (.ldxImm b) := ⟨83, _, rfl, ⟨rfl, rfl, fun _ => rfl⟩, rfl⟩
theorem ldxZp (b : Byte) : Statement (.ldxZp b) := ⟨84, _, rfl, ⟨rfl, rfl, fun _ => rfl⟩, rfl⟩
theorem ldxZpy (b : Byte) : Statement (.ldxZpy b) := ⟨85, _, rfl, ⟨rfl, rfl, fun _ => rfl⟩, rfl⟩
theorem ldyAbs (w : Word) : Statement (.ldyAbs w) :=
  ⟨86, _, rfl, ⟨rfl, rfl, fun rest => congrArg (fun v => some (Instr.ldyAbs v, rest)) (cat16_hi8_lo8 w)⟩, rfl⟩
theorem ldyAbx (w : Word) : Statement (.ldyAbx w) :=
  ⟨87, _, rfl, ⟨rfl, rfl, fun rest => congrArg (fun v => some (Instr.ldyAbx v, rest)) (cat16_hi8_lo8 w)⟩, rfl⟩
theorem ldyImm (b : Byte) : Statement (.ldyImm b) := ⟨88, _, rfl, ⟨rfl, rfl, fun _ => rfl⟩, rfl⟩
theorem ldyZp (b : Byte) : Statement (.ldyZp b) := ⟨89, _, rfl, ⟨rfl, rfl, fun _ => rfl⟩, rfl⟩
theorem ldyZpx (b : Byte) : Statement (.ldyZpx b) := ⟨90, _, rfl, ⟨rfl, rfl, fun _ => rfl⟩, rfl⟩
theorem lsrAcc : Statement .lsrAcc := ⟨91, _, rfl, ⟨rfl, rfl, fun _ => rfl⟩, rfl⟩
theorem lsrAbs (w : Word) : Statement (.lsrAbs w) :=
  ⟨92, _, rfl, ⟨rfl, rfl, fun rest => congrArg (fun v => some (Instr.lsrAbs v, rest)) (cat16_hi8_lo8 w)⟩, rfl⟩
theorem lsrAbx (w : Word) : Statement (.lsrAbx w) :=
  ⟨93, _, rfl, ⟨rfl, rfl, fun rest => congrArg (fun v => some (Instr.lsrAbx v, rest)) (cat16_hi8_lo8 w)⟩, rfl⟩
theorem lsrZp (b : Byte) : Statement (.lsrZp b) := ⟨94, _, rfl, ⟨rfl, rfl, fun _ => rfl⟩, rfl⟩
theorem lsrZpx (b : Byte) : Statement (.lsrZpx b) := ⟨95, _, rfl, ⟨rfl, rfl, fun _ => rfl⟩, rfl⟩
theorem nop : Statement .nop := ⟨96, _, rfl, ⟨rfl, rfl, fun _ => rfl⟩, rfl⟩
theorem oraAbs (w : Word) : Statement (.oraAbs w) :=
  ⟨97, _, rfl, ⟨rfl, rfl, fun rest => congrArg (fun v => some (Instr.oraAbs v, rest)) (cat16_hi8_lo8 w)⟩, rfl⟩
theorem oraAbx (w : Word) : Statement (.oraAbx w) :=
  ⟨98, _, rfl, ⟨rfl, rfl, fun rest => congrArg (fun v => some (Instr.oraAbx v, rest)) (cat16_hi8_lo8 w)⟩, rfl⟩
theorem oraAby (w : Word) : Statement (.oraAby w) :=
  ⟨99, _, rfl, ⟨rfl, rfl, fun rest => congrArg (fun v => some (Instr.oraAby v, rest)) (cat16_hi8_lo8 w)⟩, rfl⟩
theorem oraImm (b : Byte) : Statement (.oraImm b) := ⟨100, _, rfl, ⟨rfl, rfl, fun _ => rfl⟩, rfl⟩
theorem oraIzx (b : Byte) : Statement (.oraIzx b) := ⟨101, _, rfl, ⟨rfl, rfl, fun _ => rfl⟩, rfl⟩
theorem oraIzy (b : Byte) : Statement (.oraIzy b) := ⟨102, _, rfl, ⟨rfl, rfl, fun _ => rfl⟩, rfl⟩
theorem oraZp (b : Byte) : Statement (.oraZp b) := ⟨103, _, rfl, ⟨rfl, rfl, fun _ => rfl⟩, rfl⟩
theorem oraZpx (b : Byte) : Statement (.oraZpx b) := ⟨104, _, rfl, ⟨rfl, rfl, fun _ => rfl⟩, rfl⟩
theorem pha : Statement .pha := ⟨105, _, rfl, ⟨rfl, rfl, fun _ => rfl⟩, rfl⟩
theorem php : Statement .php := ⟨106, _, rfl, ⟨rfl, rfl, fun _ => rfl⟩, rfl⟩
theorem pla : Statement .pla := ⟨107, _, rfl, ⟨rfl, rfl, fun _ => rfl⟩, rfl⟩
theorem plp : Statement .plp := ⟨108, _, rfl, ⟨rfl, rfl, fun _ => rfl⟩, rfl⟩
theorem rolAcc : Statement .rolAcc := ⟨109, _, rfl, ⟨rfl, rfl, fun _ => rfl⟩, rfl⟩
theorem rolAbs (w : Word) : Statement (.rolAbs w) :=
  ⟨110, _, rfl, ⟨rfl, rfl, fun rest => congrArg (fun v => some (Instr.rolAbs v, rest)) (cat16_hi8_lo8 w)⟩, rfl⟩
theorem rolAbx (w : Word) : Statement (.rolAbx w) :=
  ⟨111, _, rfl, ⟨rfl, rfl, fun rest => congrArg (fun v => some (Instr.rolAbx v, rest)) (cat16_hi8_lo8 w)⟩, rfl⟩
theorem rolZp (b : Byte) : Statement (.rolZp b) := ⟨112, _, rfl, ⟨rfl, rfl, fun _ => rfl⟩, rfl⟩
theorem rolZpx (b : Byte) : Statement (.rolZpx b) := ⟨113, _, rfl, ⟨rfl, rfl, fun _ => rfl⟩, rfl⟩
theorem rorAcc : Statement .rorAcc := ⟨114, _, rfl, ⟨rfl, rfl, fun _ => rfl⟩, rfl⟩
theorem rorAbs (w : Word) : Statement (.rorAbs w) :=
  ⟨115, _, rfl, ⟨rfl, rfl, fun rest => congrArg (fun v => some (Instr.rorAbs v, rest)) (cat16_hi8_lo8 w)⟩, rfl⟩
theorem rorAbx (w : Word) : Statement (.rorAbx w) :=
  ⟨116, _, rfl, ⟨rfl, rfl, fun rest => congrArg (fun v => some (Instr.rorAbx v, rest)) (cat16_hi8_lo8 w)⟩, rfl⟩
theorem rorZp (b : Byte) : Statement (.rorZp b) := ⟨117, _, rfl, ⟨rfl, rfl, fun _ => rfl⟩, rfl⟩
theorem rorZpx (b : Byte) : Statement (.rorZpx b) := ⟨118, _, rfl, ⟨rfl, rfl, fun _ => rfl⟩, rfl⟩
theorem rti : Statement .rti := ⟨119, _, rfl, ⟨rfl, rfl, fun _ => rfl⟩, rfl⟩
theorem rts : Statement .rts := ⟨120, _, rfl, ⟨rfl, rfl, fun _ => rfl⟩, rfl⟩
theorem sbcAbs (w : Word) : Statement (.sbcAbs w) :=
  ⟨121, _, rfl, ⟨rfl, rfl, fun rest => congrArg (fun v => some (Instr.sbcAbs v, rest)) (cat16_hi8_lo8 w)⟩, rfl⟩
theorem sbcAbx (w : Word) : Statement (.sbcAbx w) :=
  ⟨122, _, rfl, ⟨rfl, rfl, fun rest => congrArg (fun v => some (Instr.sbcAbx v, rest)) (cat16_hi8_lo8 w)⟩, rfl⟩
theorem sbcAby (w : Word) : Statement (.sbcAby w) :=
  ⟨123, _, rfl, ⟨rfl, rfl, fun rest => congrArg (fun v => some (Instr.sbcAby v, rest)) (cat16_hi8_lo8 w)⟩, rfl⟩
theorem sbcImm (b : Byte) : Statement (.sbcImm b) := ⟨124, _, rfl, ⟨rfl, rfl, fun _ => rfl⟩, rfl⟩
theorem sbcIzx (b : Byte) : Statement (.sbcIzx b) := ⟨125, _, rfl, ⟨rfl, rfl, fun _ => rfl⟩, rfl⟩
theorem sbcIzy (b : Byte) : Statement (.sbcIzy b) := ⟨126, _, rfl, ⟨rfl, rfl, fun _ => rfl⟩, rfl⟩
theorem sbcZp (b : Byte) : Statement (.sbcZp b) := ⟨127, _, rfl, ⟨rfl, rfl, fun _ => rfl⟩, rfl⟩
theorem sbcZpx (b : Byte) : Statement (.sbcZpx b) := ⟨128, _, rfl, ⟨rfl, rfl, fun _ => rfl⟩, rfl⟩
theorem sec : Statement .sec := ⟨129, _, rfl, ⟨rfl, rfl, fun _ => rfl⟩, rfl⟩
theorem sed : Statement .sed := ⟨130, _, rfl, ⟨rfl, rfl, fun _ => rfl⟩, rfl⟩
theorem sei : Statement .sei := ⟨131, _, rfl, ⟨rfl, rfl, fun _ => rfl⟩, rfl⟩
theorem staAbs (w : Word) : Statement (.staAbs w) :=
  ⟨132, _, rfl, ⟨rfl, rfl, fun rest => congrArg (fun v => some (Instr.staAbs v, rest)) (cat16_hi8_lo8 w)⟩, rfl⟩
theorem staAbx (w : Word) : Statement (.staAbx w) :=
  ⟨133, _, rfl, ⟨rfl, rfl, fun rest => congrArg (fun v => some (Instr.staAbx v, rest)) (cat16_hi8_lo8 w)⟩, rfl⟩
theorem staAby (w : Word) : Statement (.staAby w) :=
  ⟨134, _, rfl, ⟨rfl, rfl, fun rest => congrArg (fun v => some (Instr.staAby v, rest)) (cat16_hi8_lo8 w)⟩, rfl⟩
theorem staIzx (b : Byte) : Statement (.staIzx b) := ⟨135, _, rfl, ⟨rfl, rfl, fun _ => rfl⟩, rfl⟩
theorem staIzy (b : Byte) : Statement (.staIzy b) := ⟨136, _, rfl, ⟨rfl, rfl, fun _ => rfl⟩, rfl⟩
theorem staZp (b : Byte) : Statement (.staZp b) := ⟨137, _, rfl, ⟨rfl, rfl, fun _ => rfl⟩, rfl⟩
theorem staZpx (b : Byte) : Statement (.staZpx b) := ⟨138, _, rfl, ⟨rfl, rfl, fun _ => rfl⟩, rfl⟩
theorem stxAbs (w : Word) : Statement (.stxAbs w) :=
  ⟨139, _, rfl, ⟨rfl, rfl, fun rest => congrArg (fun v => some (Instr.stxAbs v, rest)) (cat16_hi8_lo8 w)⟩, rfl⟩
theorem stxZp (b : Byte) : Statement (.stxZp b) := ⟨140, _, rfl, ⟨rfl, rfl, fun _ => rfl⟩, rfl⟩
theorem stxZpy (b : Byte) : Statement (.stxZpy b) := ⟨141, _, rfl, ⟨rfl, rfl, fun _ => rfl⟩, rfl⟩
theorem styAbs (w : Word) : Statement (.styAbs w) :=
  ⟨142, _, rfl, ⟨rfl, rfl, fun rest => congrArg (fun v => some (Instr.styAbs v, rest)) (cat16_hi8_lo8 w)⟩, rfl⟩
theorem styZp (b : Byte) : Statement (.styZp b) := ⟨143, _, rfl, ⟨rfl, rfl, fun _ => rfl⟩, rfl⟩
theorem styZpx (b : Byte) : Statement (.styZpx b) := ⟨144, _, rfl, ⟨rfl, rfl, fun _ => rfl⟩, rfl⟩
theorem tax : Statement .tax := ⟨145, _, rfl, ⟨rfl, rfl, fun _ => rfl⟩, rfl⟩
theorem tay : Statement .tay := ⟨146, _, rfl, ⟨rfl, rfl, fun _ => rfl⟩, rfl⟩
theorem tsx : Statement .tsx := ⟨147, _, rfl, ⟨rfl, rfl, fun _ => rfl⟩, rfl⟩
theorem txa : Statement .txa := ⟨148, _, rfl, ⟨rfl, rfl, fun _ => rfl⟩, rfl⟩
theorem txs : Statement .txs := ⟨149, _, rfl, ⟨rfl, rfl, fun _ => rfl⟩, rfl⟩
theorem tya : Statement .tya := ⟨150, _, rfl, ⟨rfl, rfl, fun _ => rfl⟩, rfl⟩

end Sys2Proof.Laws.Table
end

