-- ==== Sys2Proof/Laws/Decode.lean ====
section
/-! SUPPORT. The opcode map as a table: a byte and a row of the same place belong together, whatever injective map is
taken (R85). -/

namespace Sys2Proof

theorem rows_length : rows.length = 151 := by decide +kernel

theorem OpcodeMap.wf_iff (m : OpcodeMap) : OpcodeMap.wf m = true ↔ m.length = 151 ∧ m.Nodup := by
  simp [OpcodeMap.wf]

/-- The spec's default map is injective and total (R85, R86). -/
theorem OpcodeMap.standard_wf : OpcodeMap.wf OpcodeMap.standard = true := by decide +kernel

/-- In an association list with distinct keys, a key finds what stands at its own place. -/
theorem lookup_zip_of_getElem? {α β : Type} [BEq α] [LawfulBEq α] {keys : List α} {vals : List β} (hn : keys.Nodup)
    {k : Nat} {a : α} {v : β} (ha : keys[k]? = some a) (hv : vals[k]? = some v) :
    (keys.zip vals).lookup a = some v := by
  induction keys generalizing vals k with
  | nil => simp at ha
  | cons b keys ih =>
    cases vals with
    | nil => simp at hv
    | cons w vals =>
      rw [List.nodup_cons] at hn
      cases k with
      | zero => simp_all
      | succ k =>
        simp only [List.getElem?_cons_succ] at ha hv
        have hmem : a ∈ keys := List.mem_of_getElem? ha
        have hne : (a == b) = false := by
          simp only [beq_eq_false_iff_ne]
          rintro rfl
          exact hn.1 hmem
        simp only [List.zip_cons_cons, List.lookup_cons, hne]
        exact ih hn.2 ha hv

/-- Conversely, what a key finds stands at a place of that key. -/
theorem getElem?_of_lookup_zip {α β : Type} [BEq α] [LawfulBEq α] {keys : List α} {vals : List β} {a : α} {v : β}
    (h : (keys.zip vals).lookup a = some v) : ∃ k : Nat, keys[k]? = some a ∧ vals[k]? = some v := by
  induction keys generalizing vals with
  | nil => simp at h
  | cons b keys ih =>
    cases vals with
    | nil => simp at h
    | cons w vals =>
      simp only [List.zip_cons_cons, List.lookup_cons] at h
      by_cases hab : a = b
      · subst hab
        simp only [beq_self_eq_true, Option.some.injEq] at h
        exact ⟨0, by simp, by simp [h]⟩
      · have hne : (a == b) = false := by simp [hab]
        rw [hne] at h
        obtain ⟨k, hk⟩ := ih h
        exact ⟨k + 1, by simpa using hk⟩

/-- Searching the table by row finds the byte at the place of the first row that fits. -/
theorem find?_zip_of_findIdx {α β : Type} {keys : List α} {vals : List β} {p : β → Bool} {k : Nat} {a : α} {v : β}
    (hk : vals.findIdx p = k) (ha : keys[k]? = some a) (hv : vals[k]? = some v) :
    (keys.zip vals).find? (fun e => p e.2) = some (a, v) := by
  induction vals generalizing keys k with
  | nil => simp at hv
  | cons w vals ih =>
    cases keys with
    | nil => simp at ha
    | cons b keys =>
      rw [List.findIdx_cons] at hk
      cases hp : p w with
      | true =>
        simp only [hp, cond_true] at hk
        subst hk
        simp_all
      | false =>
        simp only [hp, cond_false] at hk
        subst hk
        simp only [List.getElem?_cons_succ] at ha hv
        simp only [List.zip_cons_cons, List.find?_cons, hp]
        exact ih rfl ha hv

/-- Every instruction has its opcode byte under an injective map, and that byte finds the instruction's row (R85). -/
theorem opcode_finds_row {m : OpcodeMap} (hm : OpcodeMap.wf m = true) {i : Instr} (hi : Laws.Table.Statement i) :
    ∃ opc r, opcodeOf m i.mnemonic i.mode = some opc ∧ lookupRow m opc = some r ∧ Laws.Table.RowFits i r := by
  obtain ⟨hlen, hnd⟩ := (OpcodeMap.wf_iff m).mp hm
  obtain ⟨k, r, hr, hfit, hidx⟩ := hi
  have hk : k < m.length := by
    have := (List.getElem?_eq_some_iff.mp hr).1
    rw [rows_length] at this
    omega
  have ha : m[k]? = some m[k] := List.getElem?_eq_getElem hk
  refine ⟨m[k], r, ?_, lookup_zip_of_getElem? hnd ha hr, hfit⟩
  rw [opcodeOf, find?_zip_of_findIdx hidx ha hr]
  rfl

/-- A byte finds no row exactly where the map does not assign it (R89). -/
theorem lookupRow_eq_none_iff {m : OpcodeMap} (hm : OpcodeMap.wf m = true) (b : Byte) :
    lookupRow m b = none ↔ b ∉ m := by
  obtain ⟨hlen, hnd⟩ := (OpcodeMap.wf_iff m).mp hm
  constructor
  · intro h hb
    obtain ⟨k, hk, hkb⟩ := List.getElem_of_mem hb
    have hr : rows[k]? = some (rows[k]'(by rw [rows_length]; omega)) := List.getElem?_eq_getElem _
    have := lookup_zip_of_getElem? hnd (by rw [List.getElem?_eq_getElem hk, hkb]) hr
    rw [lookupRow, this] at h
    cases h
  · intro hb
    cases h : lookupRow m b with
    | none => rfl
    | some r =>
      obtain ⟨k, hk, _⟩ := getElem?_of_lookup_zip h
      exact absurd (List.mem_of_getElem? hk) hb

end Sys2Proof
end

