-- ==== Sys2Proof/Laws/Flags.lean ====
section
/-! SUPPORT. SR is its eight flags: reading a flag after writing one, and what each flag computation leaves in each flag. -/

namespace Sys2Proof.Machine

/-- A flag after a flag is written: the new value there, the old one elsewhere (R28). -/
@[simp] theorem getFlag_setFlag (f g : Flag) (on : Bool) (sr : Byte) :
    getFlag g (setFlag f on sr) = if g = f then on else getFlag g sr := by
  have hbit : ∀ f : Flag, f.bit < 8 := by intro f; cases f <;> decide
  have hmask : ∀ f g : Flag, f.mask.getLsbD g.bit = decide (g = f) := by intro f g; cases f <;> cases g <;> decide
  simp only [getFlag, setFlag]
  by_cases hg : g = f <;> cases on <;> simp [hmask, hbit, hg, -BitVec.getLsbD_eq_getElem]

/-- Two status registers with the same flags are equal. -/
theorem sr_ext {p q : Byte} (h : ∀ f, getFlag f p = getFlag f q) : p = q := by
  apply BitVec.eq_of_getLsbD_eq
  intro k hk
  have : k = 0 ∨ k = 1 ∨ k = 2 ∨ k = 3 ∨ k = 4 ∨ k = 5 ∨ k = 6 ∨ k = 7 := by omega
  rcases this with rfl | rfl | rfl | rfl | rfl | rfl | rfl | rfl
  exacts [h .c, h .z, h .i, h .d, h .r, h .b, h .v, h .n]

/-- Bit 7 as an order fact. -/
theorem bit7_eq_decide (v : Byte) : bit7 v = decide (128 ≤ v.toNat) := by
  revert v; decide +kernel

/-- What `setZN` leaves in each flag (R140). -/
theorem getFlag_setZN (f : Flag) (v sr : Byte) :
    getFlag f (setZN v sr) = if f = .n then bit7 v else if f = .z then v == 0 else getFlag f sr := by
  cases f <;> simp [setZN]

/-- What `cmp8` leaves in each flag (R143). -/
theorem getFlag_cmp8 (f : Flag) (r m sr : Byte) :
    getFlag f (cmp8 r m sr) = if f = .n then bit7 (r - m) else if f = .z then r == m
      else if f = .c then decide (m.toNat ≤ r.toNat) else getFlag f sr := by
  cases f <;> simp [cmp8]

/-- What BIT leaves in each flag (R210). -/
theorem getFlag_bitTest (f : Flag) (a m sr : Byte) :
    getFlag f (bitTest a m sr) = if f = .z then a &&& m == 0 else if f = .v then m.getLsbD 6
      else if f = .n then bit7 m else getFlag f sr := by
  cases f <;> simp [bitTest]

/-- The adder's result as a number (R141). -/
theorem add8_toNat (a m : Byte) (cin : Bool) : (add8 a m cin).r.toNat = (a.toNat + m.toNat + cin.toNat) % 256 := by
  simp [add8, BitVec.toNat_ofNat]

/-- Exclusive or of two sign bits. -/
theorem bit7_xor (a b : Byte) : bit7 (a ^^^ b) = (bit7 a != bit7 b) := by simp [bit7]

theorem bit7_and (a b : Byte) : bit7 (a &&& b) = (bit7 a && bit7 b) := by simp [bit7]

theorem bit7_not (a : Byte) : bit7 (~~~a) = !bit7 a := by simp [bit7]

/-- The adder's overflow bit through the three sign bits (R141). -/
theorem add8_v (a m : Byte) (cin : Bool) :
    (add8 a m cin).v = ((bit7 a == bit7 m) && (bit7 a != bit7 (add8 a m cin).r)) := by
  simp only [add8, bit7_and, bit7_not, bit7_xor]
  generalize bit7 a = p; generalize bit7 m = q
  cases p <;> cases q <;> simp

/-- The complement as a number. -/
theorem not_toNat (m : Byte) : (~~~m).toNat = 255 - m.toNat := by
  rw [BitVec.toNat_not]

/-- Left shift and rotate as numbers (R144). -/
theorem asl8_toNat (v : Byte) : (asl8 v).r.toNat = v.toNat * 2 % 256 := by
  simp [asl8, BitVec.toNat_shiftLeft, Nat.shiftLeft_eq]

theorem rol8_toNat (v : Byte) (c : Bool) : (rol8 v c).r.toNat = (v.toNat * 2 + c.toNat) % 256 := by
  revert v; cases c <;> decide +kernel

/-- Right shift and rotate as numbers (R144). -/
theorem lsr8_toNat (v : Byte) : (lsr8 v).r.toNat = v.toNat / 2 := by
  simp [lsr8, BitVec.toNat_ushiftRight, Nat.shiftRight_eq_div_pow]

theorem ror8_toNat (v : Byte) (c : Bool) : (ror8 v c).r.toNat = v.toNat / 2 + c.toNat * 128 := by
  revert v; cases c <;> decide +kernel

/-- The bit that a left shift drops, and the bit that a right shift drops (R144). -/
theorem getLsbD_seven (v : Byte) : v.getLsbD 7 = decide (128 ≤ v.toNat) := bit7_eq_decide v

theorem getLsbD_zero_eq (v : Byte) : v.getLsbD 0 = decide (v.toNat % 2 = 1) := by
  revert v; decide +kernel

theorem inc8_toNat (v : Byte) : (inc8 v).toNat = (v.toNat + 1) % 256 := by simp [inc8, BitVec.toNat_add]

theorem dec8_toNat (v : Byte) : (dec8 v).toNat = (v.toNat + 255) % 256 := by
  rw [dec8, BitVec.toNat_sub, Nat.add_comm]; rfl

end Sys2Proof.Machine
end

