-- ==== Sys2Proof/Laws/Memory.lean ====
section
/-! SUPPORT. The memory array: a store replaces one byte and no other, every operation keeps the canonical form, and
canonical memories that hold the same bytes are equal data. -/

namespace Sys2Proof.Machine

@[simp] theorem Memory.read_nil (n : Nat) : Memory.read [] n = 0 := rfl

theorem Memory.read_cons (k : Nat) (u : Byte) (m : Memory) (n : Nat) :
    Memory.read ((k, u) :: m) n = if n = k then u else Memory.read m n := rfl

/-- An erased address reads as an unlisted one; the others read as before. -/
theorem Memory.read_erase (m : Memory) (n k : Nat) :
    (m.erase n).read k = if k = n then unlistedByte else m.read k := by
  induction m with
  | nil => simp [Memory.erase, Memory.read, unlistedByte]
  | cons cell m ih =>
    obtain ⟨j, u⟩ := cell
    simp only [Memory.erase] at ih ⊢
    by_cases hj : j = n
    · subst hj
      by_cases hk : k = j <;> simp_all [Memory.read_cons]
    · by_cases hk : k = n
      · subst hk
        have : ¬ k = j := fun h => hj h.symm
        simp_all [Memory.read_cons]
      · simp_all [Memory.read_cons]

/-- Listing a byte at an address that is not listed. -/
theorem Memory.read_insert (m : Memory) (n k : Nat) (v : Byte) (hn : ∀ u, (n, u) ∉ m) :
    (m.insert n v).read k = if k = n then v else m.read k := by
  induction m with
  | nil => simp [Memory.insert, Memory.read]
  | cons cell m ih =>
    obtain ⟨j, u⟩ := cell
    have hj : j ≠ n := fun h => hn u (by simp [h])
    have ih := ih fun u' h => hn u' (List.mem_cons_of_mem _ h)
    simp only [Memory.insert]
    split
    · simp [Memory.read_cons]
    · simp only [Memory.read_cons, ih]
      by_cases hk : k = j
      · subst hk; simp [hj]
      · simp [hk]

theorem Memory.not_mem_erase (m : Memory) (n : Nat) (u : Byte) : (n, u) ∉ m.erase n := by
  simp [Memory.erase]

/-- Read after write, for every memory. -/
theorem Memory.read_write (m : Memory) (n k : Nat) (v : Byte) :
    (m.write n v).read k = if k = n then v else m.read k := by
  unfold Memory.write
  split
  · rename_i hv; rw [Memory.read_erase, hv]
  · rw [Memory.read_insert _ _ _ _ (Memory.not_mem_erase m n)]
    by_cases hk : k = n <;> simp [hk, Memory.read_erase]

@[simp] theorem Memory.read_write_same (m : Memory) (n : Nat) (v : Byte) : (m.write n v).read n = v := by
  simp [Memory.read_write]

theorem Memory.read_write_other (m : Memory) (n k : Nat) (v : Byte) (h : k ≠ n) :
    (m.write n v).read k = m.read k := by
  simp [Memory.read_write, h]

/-! ### The canonical form -/

theorem Memory.wfFrom_cons (lo k : Nat) (u : Byte) (m : Memory) :
    Memory.wfFrom lo ((k, u) :: m) = true ↔ lo ≤ k ∧ k < 65536 ∧ u ≠ unlistedByte ∧ Memory.wfFrom (k + 1) m = true := by
  simp [Memory.wfFrom, and_assoc]

theorem Memory.wfFrom_mono {lo lo' : Nat} {m : Memory} (h : lo' ≤ lo) (hm : Memory.wfFrom lo m = true) :
    Memory.wfFrom lo' m = true := by
  cases m with
  | nil => rfl
  | cons cell m =>
    obtain ⟨k, u⟩ := cell
    rw [Memory.wfFrom_cons] at hm ⊢
    exact ⟨by omega, hm.2⟩

theorem Memory.wfFrom_erase {lo : Nat} {m : Memory} (n : Nat) (hm : Memory.wfFrom lo m = true) :
    Memory.wfFrom lo (m.erase n) = true := by
  induction m generalizing lo with
  | nil => rfl
  | cons cell m ih =>
    obtain ⟨k, u⟩ := cell
    rw [Memory.wfFrom_cons] at hm
    have ih := ih hm.2.2.2
    by_cases hk : k = n
    · have : Memory.erase ((k, u) :: m) n = Memory.erase m n := by simp [Memory.erase, hk]
      rw [this]
      exact Memory.wfFrom_mono (by omega) ih
    · have : Memory.erase ((k, u) :: m) n = (k, u) :: Memory.erase m n := by simp [Memory.erase, hk]
      rw [this, Memory.wfFrom_cons]
      exact ⟨hm.1, hm.2.1, hm.2.2.1, ih⟩

theorem Memory.wfFrom_insert {lo : Nat} {m : Memory} {n : Nat} {v : Byte} (hm : Memory.wfFrom lo m = true)
    (hlo : lo ≤ n) (hn : n < 65536) (hv : v ≠ unlistedByte) (hmem : ∀ u, (n, u) ∉ m) :
    Memory.wfFrom lo (m.insert n v) = true := by
  induction m generalizing lo with
  | nil => simp only [Memory.insert, Memory.wfFrom_cons]; exact ⟨hlo, hn, hv, rfl⟩
  | cons cell m ih =>
    obtain ⟨k, u⟩ := cell
    rw [Memory.wfFrom_cons] at hm
    have hk : k ≠ n := fun h => hmem u (by simp [h])
    simp only [Memory.insert]
    split
    · rw [Memory.wfFrom_cons, Memory.wfFrom_cons]
      exact ⟨hlo, hn, hv, by omega, hm.2⟩
    · rw [Memory.wfFrom_cons]
      exact ⟨hm.1, hm.2.1, hm.2.2.1,
        ih hm.2.2.2 (by omega) fun u' h => hmem u' (List.mem_cons_of_mem _ h)⟩

/-- A store to an address of the array keeps the canonical form. -/
theorem Memory.wf_write {m : Memory} {n : Nat} (v : Byte) (hn : n < 65536) (hm : m.wf = true) :
    (m.write n v).wf = true := by
  unfold Memory.write
  split
  · exact Memory.wfFrom_erase n hm
  · rename_i hv
    exact Memory.wfFrom_insert (Memory.wfFrom_erase n hm) (Nat.zero_le n) hn hv (Memory.not_mem_erase m n)

theorem Memory.read_of_wfFrom_lt {lo n : Nat} {m : Memory} (hm : Memory.wfFrom lo m = true) (h : n < lo) :
    m.read n = unlistedByte := by
  induction m generalizing lo with
  | nil => rfl
  | cons cell m ih =>
    obtain ⟨k, u⟩ := cell
    rw [Memory.wfFrom_cons] at hm
    have : ¬ n = k := by omega
    rw [Memory.read_cons, if_neg this]
    exact ih hm.2.2.2 (by omega)

/-- Canonical memories with equal bytes are equal lists. -/
theorem Memory.eq_of_read_eq {lo lo' : Nat} {m m' : Memory} (hm : Memory.wfFrom lo m = true)
    (hm' : Memory.wfFrom lo' m' = true) (h : ∀ n, m.read n = m'.read n) : m = m' := by
  induction m generalizing lo lo' m' with
  | nil =>
    cases m' with
    | nil => rfl
    | cons cell m' =>
      obtain ⟨k, u⟩ := cell
      rw [Memory.wfFrom_cons] at hm'
      have := h k
      simp only [Memory.read_cons, if_true] at this
      exact absurd this.symm hm'.2.2.1
  | cons cell m ih =>
    obtain ⟨k, u⟩ := cell
    rw [Memory.wfFrom_cons] at hm
    cases m' with
    | nil =>
      have := h k
      simp only [Memory.read_cons, if_true] at this
      exact absurd this hm.2.2.1
    | cons cell' m' =>
      obtain ⟨k', u'⟩ := cell'
      have hm'c := hm'
      rw [Memory.wfFrom_cons] at hm'
      have hk : k = k' := by
        by_contra hne
        rcases Nat.lt_or_gt_of_ne hne with hlt | hlt
        · have := h k
          rw [Memory.read_cons, if_pos rfl, Memory.read_cons, if_neg hne,
            Memory.read_of_wfFrom_lt hm'.2.2.2 (by omega)] at this
          exact hm.2.2.1 this
        · have := h k'
          rw [Memory.read_cons, if_neg (Ne.symm hne), Memory.read_cons, if_pos rfl,
            Memory.read_of_wfFrom_lt hm.2.2.2 (by omega)] at this
          exact hm'.2.2.1 this.symm
      subst hk
      have hu : u = u' := by
        have := h k
        simpa [Memory.read_cons] using this
      subst hu
      congr 1
      refine ih hm.2.2.2 hm'.2.2.2 fun n => ?_
      by_cases hn : n = k
      · subst hn
        rw [Memory.read_of_wfFrom_lt hm.2.2.2 (by omega), Memory.read_of_wfFrom_lt hm'.2.2.2 (by omega)]
      · have := h n
        simpa [Memory.read_cons, hn] using this

/-- A store through the load-store unit keeps the canonical form. -/
theorem writeMem_wf {s : State} (n : Word) (v : Byte) (h : s.mem.wf = true) : (s.writeMem n v).mem.wf = true :=
  Memory.wf_write v n.isLt h

/-- So does storing a byte sequence. -/
theorem storeBytes_wf {s : State} (n : Word) (bytes : List Byte) (h : s.mem.wf = true) :
    (s.storeBytes n bytes).mem.wf = true := by
  induction bytes generalizing s n with
  | nil => exact h
  | cons b rest ih => exact ih _ (writeMem_wf n b h)

/-- The memory after reset is in canonical form. -/
theorem reset_mem_wf : State.reset.mem.wf = true := rfl

end Sys2Proof.Machine
end

