-- ==== Sys2Proof/Laws/State.lean ====
section
/-! SUPPORT. What each state update of Sys2Proof/Machine/Ops.lean and Operands.lean leaves in each field: one lemma per field
per update, true by rfl (for `Loc.write` by its cases), so that no later proof unfolds a record update. -/

namespace Sys2Proof.Machine

/-! ### writeMem -/

@[simp] theorem writeMem_a (s : State) (n : Word) (v : Byte) : (s.writeMem n v).a = s.a := rfl
@[simp] theorem writeMem_x (s : State) (n : Word) (v : Byte) : (s.writeMem n v).x = s.x := rfl
@[simp] theorem writeMem_y (s : State) (n : Word) (v : Byte) : (s.writeMem n v).y = s.y := rfl
@[simp] theorem writeMem_sp (s : State) (n : Word) (v : Byte) : (s.writeMem n v).sp = s.sp := rfl
@[simp] theorem writeMem_pc (s : State) (n : Word) (v : Byte) : (s.writeMem n v).pc = s.pc := rfl
@[simp] theorem writeMem_sr (s : State) (n : Word) (v : Byte) : (s.writeMem n v).sr = s.sr := rfl
@[simp] theorem writeMem_mem (s : State) (n : Word) (v : Byte) : (s.writeMem n v).mem = s.mem.write n.toNat v := rfl
@[simp] theorem writeMem_status (s : State) (n : Word) (v : Byte) : (s.writeMem n v).status = s.status := rfl
@[simp] theorem writeMem_everReset (s : State) (n : Word) (v : Byte) : (s.writeMem n v).everReset = s.everReset := rfl
@[simp] theorem writeMem_params (s : State) (n : Word) (v : Byte) : (s.writeMem n v).params = s.params := rfl

/-! ### setFlag -/

@[simp] theorem setFlag_a (s : State) (f : Flag) (on : Bool) : (s.setFlag f on).a = s.a := rfl
@[simp] theorem setFlag_x (s : State) (f : Flag) (on : Bool) : (s.setFlag f on).x = s.x := rfl
@[simp] theorem setFlag_y (s : State) (f : Flag) (on : Bool) : (s.setFlag f on).y = s.y := rfl
@[simp] theorem setFlag_sp (s : State) (f : Flag) (on : Bool) : (s.setFlag f on).sp = s.sp := rfl
@[simp] theorem setFlag_pc (s : State) (f : Flag) (on : Bool) : (s.setFlag f on).pc = s.pc := rfl
@[simp] theorem setFlag_sr (s : State) (f : Flag) (on : Bool) : (s.setFlag f on).sr = Machine.setFlag f on s.sr := rfl
@[simp] theorem setFlag_mem (s : State) (f : Flag) (on : Bool) : (s.setFlag f on).mem = s.mem := rfl
@[simp] theorem setFlag_status (s : State) (f : Flag) (on : Bool) : (s.setFlag f on).status = s.status := rfl
@[simp] theorem setFlag_everReset (s : State) (f : Flag) (on : Bool) : (s.setFlag f on).everReset = s.everReset := rfl
@[simp] theorem setFlag_params (s : State) (f : Flag) (on : Bool) : (s.setFlag f on).params = s.params := rfl

/-! ### setZN -/

@[simp] theorem setZN_a (s : State) (v : Byte) : (s.setZN v).a = s.a := rfl
@[simp] theorem setZN_x (s : State) (v : Byte) : (s.setZN v).x = s.x := rfl
@[simp] theorem setZN_y (s : State) (v : Byte) : (s.setZN v).y = s.y := rfl
@[simp] theorem setZN_sp (s : State) (v : Byte) : (s.setZN v).sp = s.sp := rfl
@[simp] theorem setZN_pc (s : State) (v : Byte) : (s.setZN v).pc = s.pc := rfl
@[simp] theorem setZN_sr (s : State) (v : Byte) : (s.setZN v).sr = Machine.setZN v s.sr := rfl
@[simp] theorem setZN_mem (s : State) (v : Byte) : (s.setZN v).mem = s.mem := rfl
@[simp] theorem setZN_status (s : State) (v : Byte) : (s.setZN v).status = s.status := rfl
@[simp] theorem setZN_everReset (s : State) (v : Byte) : (s.setZN v).everReset = s.everReset := rfl
@[simp] theorem setZN_params (s : State) (v : Byte) : (s.setZN v).params = s.params := rfl

/-! ### loadA -/

@[simp] theorem loadA_a (v : Byte) (s : State) : (loadA v s).a = v := rfl
@[simp] theorem loadA_x (v : Byte) (s : State) : (loadA v s).x = s.x := rfl
@[simp] theorem loadA_y (v : Byte) (s : State) : (loadA v s).y = s.y := rfl
@[simp] theorem loadA_sp (v : Byte) (s : State) : (loadA v s).sp = s.sp := rfl
@[simp] theorem loadA_pc (v : Byte) (s : State) : (loadA v s).pc = s.pc := rfl
@[simp] theorem loadA_sr (v : Byte) (s : State) : (loadA v s).sr = Machine.setZN v s.sr := rfl
@[simp] theorem loadA_mem (v : Byte) (s : State) : (loadA v s).mem = s.mem := rfl
@[simp] theorem loadA_status (v : Byte) (s : State) : (loadA v s).status = s.status := rfl
@[simp] theorem loadA_everReset (v : Byte) (s : State) : (loadA v s).everReset = s.everReset := rfl
@[simp] theorem loadA_params (v : Byte) (s : State) : (loadA v s).params = s.params := rfl

/-! ### loadX -/

@[simp] theorem loadX_a (v : Byte) (s : State) : (loadX v s).a = s.a := rfl
@[simp] theorem loadX_x (v : Byte) (s : State) : (loadX v s).x = v := rfl
@[simp] theorem loadX_y (v : Byte) (s : State) : (loadX v s).y = s.y := rfl
@[simp] theorem loadX_sp (v : Byte) (s : State) : (loadX v s).sp = s.sp := rfl
@[simp] theorem loadX_pc (v : Byte) (s : State) : (loadX v s).pc = s.pc := rfl
@[simp] theorem loadX_sr (v : Byte) (s : State) : (loadX v s).sr = Machine.setZN v s.sr := rfl
@[simp] theorem loadX_mem (v : Byte) (s : State) : (loadX v s).mem = s.mem := rfl
@[simp] theorem loadX_status (v : Byte) (s : State) : (loadX v s).status = s.status := rfl
@[simp] theorem loadX_everReset (v : Byte) (s : State) : (loadX v s).everReset = s.everReset := rfl
@[simp] theorem loadX_params (v : Byte) (s : State) : (loadX v s).params = s.params := rfl

/-! ### loadY -/

@[simp] theorem loadY_a (v : Byte) (s : State) : (loadY v s).a = s.a := rfl
@[simp] theorem loadY_x (v : Byte) (s : State) : (loadY v s).x = s.x := rfl
@[simp] theorem loadY_y (v : Byte) (s : State) : (loadY v s).y = v := rfl
@[simp] theorem loadY_sp (v : Byte) (s : State) : (loadY v s).sp = s.sp := rfl
@[simp] theorem loadY_pc (v : Byte) (s : State) : (loadY v s).pc = s.pc := rfl
@[simp] theorem loadY_sr (v : Byte) (s : State) : (loadY v s).sr = Machine.setZN v s.sr := rfl
@[simp] theorem loadY_mem (v : Byte) (s : State) : (loadY v s).mem = s.mem := rfl
@[simp] theorem loadY_status (v : Byte) (s : State) : (loadY v s).status = s.status := rfl
@[simp] theorem loadY_everReset (v : Byte) (s : State) : (loadY v s).everReset = s.everReset := rfl
@[simp] theorem loadY_params (v : Byte) (s : State) : (loadY v s).params = s.params := rfl

/-! ### push -/

@[simp] theorem push_a (s : State) (v : Byte) : (s.push v).a = s.a := rfl
@[simp] theorem push_x (s : State) (v : Byte) : (s.push v).x = s.x := rfl
@[simp] theorem push_y (s : State) (v : Byte) : (s.push v).y = s.y := rfl
@[simp] theorem push_sp (s : State) (v : Byte) : (s.push v).sp = s.sp - 1 := rfl
@[simp] theorem push_pc (s : State) (v : Byte) : (s.push v).pc = s.pc := rfl
@[simp] theorem push_sr (s : State) (v : Byte) : (s.push v).sr = s.sr := rfl
@[simp] theorem push_mem (s : State) (v : Byte) : (s.push v).mem = s.mem.write (stackAddr s.sp).toNat v := rfl
@[simp] theorem push_status (s : State) (v : Byte) : (s.push v).status = s.status := rfl
@[simp] theorem push_everReset (s : State) (v : Byte) : (s.push v).everReset = s.everReset := rfl
@[simp] theorem push_params (s : State) (v : Byte) : (s.push v).params = s.params := rfl

/-! ### pull -/

@[simp] theorem pull_a (s : State) : (s.pull.2).a = s.a := rfl
@[simp] theorem pull_x (s : State) : (s.pull.2).x = s.x := rfl
@[simp] theorem pull_y (s : State) : (s.pull.2).y = s.y := rfl
@[simp] theorem pull_sp (s : State) : (s.pull.2).sp = s.sp + 1 := rfl
@[simp] theorem pull_pc (s : State) : (s.pull.2).pc = s.pc := rfl
@[simp] theorem pull_sr (s : State) : (s.pull.2).sr = s.sr := rfl
@[simp] theorem pull_mem (s : State) : (s.pull.2).mem = s.mem := rfl
@[simp] theorem pull_status (s : State) : (s.pull.2).status = s.status := rfl
@[simp] theorem pull_everReset (s : State) : (s.pull.2).everReset = s.everReset := rfl
@[simp] theorem pull_params (s : State) : (s.pull.2).params = s.params := rfl

/-! ### pushWord -/

@[simp] theorem pushWord_a (s : State) (w : Word) : (s.pushWord w).a = s.a := rfl
@[simp] theorem pushWord_x (s : State) (w : Word) : (s.pushWord w).x = s.x := rfl
@[simp] theorem pushWord_y (s : State) (w : Word) : (s.pushWord w).y = s.y := rfl
@[simp] theorem pushWord_sp (s : State) (w : Word) : (s.pushWord w).sp = s.sp - 1 - 1 := rfl
@[simp] theorem pushWord_pc (s : State) (w : Word) : (s.pushWord w).pc = s.pc := rfl
@[simp] theorem pushWord_sr (s : State) (w : Word) : (s.pushWord w).sr = s.sr := rfl
@[simp] theorem pushWord_mem (s : State) (w : Word) : (s.pushWord w).mem = (s.mem.write (stackAddr s.sp).toNat (hi8 w)).write (stackAddr (s.sp - 1)).toNat (lo8 w) := rfl
@[simp] theorem pushWord_status (s : State) (w : Word) : (s.pushWord w).status = s.status := rfl
@[simp] theorem pushWord_everReset (s : State) (w : Word) : (s.pushWord w).everReset = s.everReset := rfl
@[simp] theorem pushWord_params (s : State) (w : Word) : (s.pushWord w).params = s.params := rfl

/-! ### pullWord -/

@[simp] theorem pullWord_a (s : State) : (s.pullWord.2).a = s.a := rfl
@[simp] theorem pullWord_x (s : State) : (s.pullWord.2).x = s.x := rfl
@[simp] theorem pullWord_y (s : State) : (s.pullWord.2).y = s.y := rfl
@[simp] theorem pullWord_sp (s : State) : (s.pullWord.2).sp = s.sp + 1 + 1 := rfl
@[simp] theorem pullWord_pc (s : State) : (s.pullWord.2).pc = s.pc := rfl
@[simp] theorem pullWord_sr (s : State) : (s.pullWord.2).sr = s.sr := rfl
@[simp] theorem pullWord_mem (s : State) : (s.pullWord.2).mem = s.mem := rfl
@[simp] theorem pullWord_status (s : State) : (s.pullWord.2).status = s.status := rfl
@[simp] theorem pullWord_everReset (s : State) : (s.pullWord.2).everReset = s.everReset := rfl
@[simp] theorem pullWord_params (s : State) : (s.pullWord.2).params = s.params := rfl

/-! ### fetchByte -/

@[simp] theorem fetchByte_a (s : State) : (s.fetchByte.2).a = s.a := rfl
@[simp] theorem fetchByte_x (s : State) : (s.fetchByte.2).x = s.x := rfl
@[simp] theorem fetchByte_y (s : State) : (s.fetchByte.2).y = s.y := rfl
@[simp] theorem fetchByte_sp (s : State) : (s.fetchByte.2).sp = s.sp := rfl
@[simp] theorem fetchByte_pc (s : State) : (s.fetchByte.2).pc = s.pc + 1 := rfl
@[simp] theorem fetchByte_sr (s : State) : (s.fetchByte.2).sr = s.sr := rfl
@[simp] theorem fetchByte_mem (s : State) : (s.fetchByte.2).mem = s.mem := rfl
@[simp] theorem fetchByte_status (s : State) : (s.fetchByte.2).status = s.status := rfl
@[simp] theorem fetchByte_everReset (s : State) : (s.fetchByte.2).everReset = s.everReset := rfl
@[simp] theorem fetchByte_params (s : State) : (s.fetchByte.2).params = s.params := rfl

/-! ### raiseUnsupportedOpcode -/

@[simp] theorem raiseUnsupportedOpcode_a (s : State) : (s.raiseUnsupportedOpcode).a = s.a := rfl
@[simp] theorem raiseUnsupportedOpcode_x (s : State) : (s.raiseUnsupportedOpcode).x = s.x := rfl
@[simp] theorem raiseUnsupportedOpcode_y (s : State) : (s.raiseUnsupportedOpcode).y = s.y := rfl
@[simp] theorem raiseUnsupportedOpcode_sp (s : State) : (s.raiseUnsupportedOpcode).sp = s.sp := rfl
@[simp] theorem raiseUnsupportedOpcode_pc (s : State) : (s.raiseUnsupportedOpcode).pc = s.pc := rfl
@[simp] theorem raiseUnsupportedOpcode_sr (s : State) : (s.raiseUnsupportedOpcode).sr = s.sr := rfl
@[simp] theorem raiseUnsupportedOpcode_mem (s : State) : (s.raiseUnsupportedOpcode).mem = s.mem := rfl
@[simp] theorem raiseUnsupportedOpcode_status (s : State) : (s.raiseUnsupportedOpcode).status = .faulted ⟨.unsupportedOpcode, s.readMem s.pc, s.pc⟩ := rfl
@[simp] theorem raiseUnsupportedOpcode_everReset (s : State) : (s.raiseUnsupportedOpcode).everReset = s.everReset := rfl
@[simp] theorem raiseUnsupportedOpcode_params (s : State) : (s.raiseUnsupportedOpcode).params = s.params := rfl

/-! ### doReset -/

@[simp] theorem doReset_a (s : State) : (s.doReset).a = 0 := rfl
@[simp] theorem doReset_x (s : State) : (s.doReset).x = 0 := rfl
@[simp] theorem doReset_y (s : State) : (s.doReset).y = 0 := rfl
@[simp] theorem doReset_sp (s : State) : (s.doReset).sp = 0 := rfl
@[simp] theorem doReset_pc (s : State) : (s.doReset).pc = 0 := rfl
@[simp] theorem doReset_sr (s : State) : (s.doReset).sr = 0 := rfl
@[simp] theorem doReset_mem (s : State) : (s.doReset).mem = s.mem := rfl
@[simp] theorem doReset_status (s : State) : (s.doReset).status = .running := rfl
@[simp] theorem doReset_everReset (s : State) : (s.doReset).everReset = true := rfl
@[simp] theorem doReset_params (s : State) : (s.doReset).params = s.params := rfl

/-! ### pullStatusAndPc -/

@[simp] theorem pullStatusAndPc_a (s : State) : (s.pullStatusAndPc).a = s.a := rfl
@[simp] theorem pullStatusAndPc_x (s : State) : (s.pullStatusAndPc).x = s.x := rfl
@[simp] theorem pullStatusAndPc_y (s : State) : (s.pullStatusAndPc).y = s.y := rfl
@[simp] theorem pullStatusAndPc_sp (s : State) : (s.pullStatusAndPc).sp = s.sp + 1 + 1 + 1 := rfl
@[simp] theorem pullStatusAndPc_pc (s : State) : (s.pullStatusAndPc).pc = cat16 (s.readMem (stackAddr (s.sp + 1 + 1 + 1))) (s.readMem (stackAddr (s.sp + 1 + 1))) := rfl
@[simp] theorem pullStatusAndPc_sr (s : State) : (s.pullStatusAndPc).sr = s.readMem (stackAddr (s.sp + 1)) := rfl
@[simp] theorem pullStatusAndPc_mem (s : State) : (s.pullStatusAndPc).mem = s.mem := rfl
@[simp] theorem pullStatusAndPc_status (s : State) : (s.pullStatusAndPc).status = s.status := rfl
@[simp] theorem pullStatusAndPc_everReset (s : State) : (s.pullStatusAndPc).everReset = s.everReset := rfl
@[simp] theorem pullStatusAndPc_params (s : State) : (s.pullStatusAndPc).params = s.params := rfl

/-! ### Loc.write -/

@[simp] theorem locWrite_x (op : Loc) (v : Byte) (s : State) : (op.write v s).x = s.x := by cases op <;> rfl
@[simp] theorem locWrite_y (op : Loc) (v : Byte) (s : State) : (op.write v s).y = s.y := by cases op <;> rfl
@[simp] theorem locWrite_sp (op : Loc) (v : Byte) (s : State) : (op.write v s).sp = s.sp := by cases op <;> rfl
@[simp] theorem locWrite_pc (op : Loc) (v : Byte) (s : State) : (op.write v s).pc = s.pc := by cases op <;> rfl
@[simp] theorem locWrite_sr (op : Loc) (v : Byte) (s : State) : (op.write v s).sr = s.sr := by cases op <;> rfl
@[simp] theorem locWrite_status (op : Loc) (v : Byte) (s : State) : (op.write v s).status = s.status := by cases op <;> rfl
@[simp] theorem locWrite_everReset (op : Loc) (v : Byte) (s : State) : (op.write v s).everReset = s.everReset := by cases op <;> rfl
@[simp] theorem locWrite_params (op : Loc) (v : Byte) (s : State) : (op.write v s).params = s.params := by cases op <;> rfl
@[simp] theorem locWrite_a_mem (ea : Word) (v : Byte) (s : State) : (Loc.write (.mem ea) v s).a = s.a := rfl
@[simp] theorem locWrite_a_regA (v : Byte) (s : State) : (Loc.write .regA v s).a = v := rfl
@[simp] theorem locWrite_mem_mem (ea : Word) (v : Byte) (s : State) :
    (Loc.write (.mem ea) v s).mem = s.mem.write ea.toNat v := rfl
@[simp] theorem locWrite_mem_regA (v : Byte) (s : State) : (Loc.write .regA v s).mem = s.mem := rfl

/-! ### Reads -/

@[simp] theorem locRead_regA (s : State) : Loc.read .regA s = s.a := rfl
@[simp] theorem locRead_mem (ea : Word) (s : State) : Loc.read (.mem ea) s = s.mem.read ea.toNat := rfl
@[simp] theorem locRead_imm (b : Byte) (s : State) : Loc.read (.imm b) s = b := rfl
@[simp] theorem readMem_eq (s : State) (n : Word) : s.readMem n = s.mem.read n.toNat := rfl
@[simp] theorem flag_eq (s : State) (f : Flag) : s.flag f = getFlag f s.sr := rfl
@[simp] theorem pull_value (s : State) : s.pull.1 = s.mem.read (stackAddr (s.sp + 1)).toNat := rfl
@[simp] theorem pullWord_value (s : State) : s.pullWord.1 =
    cat16 (s.mem.read (stackAddr (s.sp + 1 + 1)).toNat) (s.mem.read (stackAddr (s.sp + 1)).toNat) := rfl
@[simp] theorem fetchByte_value (s : State) : s.fetchByte.1 = s.mem.read s.pc.toNat := rfl

/-- Two states with the same fields are the same state. -/
theorem State.ext_fields {s t : State} (ha : s.a = t.a) (hx : s.x = t.x) (hy : s.y = t.y) (hsp : s.sp = t.sp)
    (hpc : s.pc = t.pc) (hsr : s.sr = t.sr) (hmem : s.mem = t.mem) (hst : s.status = t.status)
    (her : s.everReset = t.everReset) (hp : s.params = t.params) : s = t := by
  cases s; cases t; simp_all

end Sys2Proof.Machine
end

