-- ==== Sys2Proof/Laws/Ops.lean ====
section
/-! SUPPORT. The byte helpers, the addresses and the pointers as numbers (R11, R24, R56, R128 to R138). -/

namespace Sys2Proof

@[simp] theorem zext16_toNat (b : Byte) : (zext16 b).toNat = b.toNat := by
  have := b.isLt
  simp only [zext16, BitVec.toNat_setWidth]
  omega

theorem cat16_toNat (hi lo : Byte) : (cat16 hi lo).toNat = hi.toNat * 256 + lo.toNat := by
  have := lo.isLt
  simp only [cat16, BitVec.toNat_append]
  rw [← Nat.shiftLeft_add_eq_or_of_lt this, Nat.shiftLeft_eq]

theorem hi8_toNat (w : Word) : (hi8 w).toNat = w.toNat / 256 := by
  have := w.isLt
  simp only [hi8, BitVec.extractLsb'_toNat, Nat.shiftRight_eq_div_pow]
  omega

theorem lo8_toNat (w : Word) : (lo8 w).toNat = w.toNat % 256 := by
  simp [lo8, BitVec.extractLsb'_toNat]

/-- A sign-extended byte as a number (R11). -/
theorem sext16_toNat (d : Byte) :
    (sext16 d).toNat = if d.toNat < 128 then d.toNat else 65280 + d.toNat := by
  revert d; decide +kernel

namespace Machine

/-- The stack page (R24). -/
theorem stackAddr_toNat (sp : Byte) : (stackAddr sp).toNat = 0x0100 + sp.toNat := by
  have := sp.isLt
  have h : (0x0100 : Word).toNat = 0x0100 := rfl
  simp only [stackAddr, BitVec.toNat_add, zext16_toNat, h]
  omega

/-- A pointer as a number, in either byte order (R56). -/
theorem ptr16_toNat (s : State) (p q : Word) : (s.ptr16 p q).toNat =
    match s.params.ptrByteOrder with
    | .highFirst => (s.mem.read p.toNat).toNat * 256 + (s.mem.read q.toNat).toNat
    | .lowFirst => (s.mem.read q.toNat).toNat * 256 + (s.mem.read p.toNat).toNat := by
  unfold State.ptr16
  cases s.params.ptrByteOrder <;> exact cat16_toNat _ _

/-- The Relative target as a number (R138). -/
theorem targetRel_toNat (d : Byte) (s : State) : (targetRel d s).toNat =
    if d.toNat < 128 then (s.pc.toNat + d.toNat) % 65536 else (s.pc.toNat + 65536 + d.toNat - 256) % 65536 := by
  have hd := d.isLt
  simp only [targetRel, BitVec.toNat_add, sext16_toNat]
  split <;> omega

/-- Push, then pull: the byte comes back and SP is where it was (R63). -/
theorem pull_push (s : State) (v : Byte) : (s.push v).pull.1 = v ∧ (s.push v).pull.2.sp = s.sp := by
  constructor <;> simp

/-- The fetch unit gives an instruction exactly where the opcode byte has a row, and then only PC has moved (R120, R148). -/
theorem fetchInstr_frame {s t : State} {i : Instr} (h : s.fetchInstr = some (i, t)) : t = { s with pc := t.pc } := by
  unfold State.fetchInstr at h
  simp only at h
  split at h
  · cases h
  · split at h <;>
    · simp only [Option.some.injEq, Prod.mk.injEq] at h
      rw [← h.2]
      rfl

theorem fetchInstr_eq_none_iff (s : State) :
    s.fetchInstr = none ↔ lookupRow s.params.opcodeMap (s.mem.read s.pc.toNat) = none := by
  unfold State.fetchInstr
  simp only [fetchByte_value]
  split
  · simp [*]
  · split <;> simp [*]

end Machine

end Sys2Proof
end

