-- ==== Sys2Proof/Laws/Operands.lean ====
section
/-! SUPPORT. The operand locations of the machine and the table of rule R139 over numbers are the same, mode by mode. -/

namespace Sys2Proof.Machine

open Sys2Proof.Claims

/-- The pointers of the machine are those of the table, where their two addresses are (R56). -/
theorem ptr16_toNat_eq (s : State) (p q : Word) : (s.ptr16 p q).toNat = pointerAt s p.toNat q.toNat := ptr16_toNat s p q

theorem zpPointer_toNat (z : Byte) (s : State) :
    (zpPointer z s).toNat = pointerAt s z.toNat ((z.toNat + 1) % 256) := by
  rw [zpPointer, ptr16_toNat_eq]
  simp [BitVec.toNat_add]

/-- An 8-bit sum as a number (R11). -/
theorem byte_add_toNat (b i : Byte) : (b + i).toNat = (b.toNat + i.toNat) % 256 := by
  simp [BitVec.toNat_add]

/-- ZeroPage,X and ZeroPage,Y (R129, R130). -/
theorem zext16_add_toNat (b i : Byte) : (zext16 (b + i)).toNat = (b.toNat + i.toNat) % 256 := by
  simp [BitVec.toNat_add]

/-- Absolute,X and Absolute,Y (R132, R133). -/
theorem add_zext16_toNat (w : Word) (i : Byte) : (w + zext16 i).toNat = (w.toNat + i.toNat) % 65536 := by
  simp [BitVec.toNat_add]

/-- Indirect,X (R136). -/
theorem izx_toNat (b : Byte) (s : State) : (zpPointer (b + s.x) s).toNat =
    pointerAt s ((b.toNat + s.x.toNat) % 256) (((b.toNat + s.x.toNat) % 256 + 1) % 256) := by
  rw [zpPointer_toNat]; simp [BitVec.toNat_add]

/-- Indirect,Y (R137). -/
theorem izy_toNat (b : Byte) (s : State) : (zpPointer b s + zext16 s.y).toNat =
    (pointerAt s b.toNat ((b.toNat + 1) % 256) + s.y.toNat) % 65536 := by
  rw [add_zext16_toNat, zpPointer_toNat]

/-- Indirect (R135). -/
theorem targetInd_toNat (w : Word) (s : State) :
    (targetInd w s).toNat = pointerAt s w.toNat ((w.toNat + 1) % 65536) := by
  rw [targetInd, ptr16_toNat_eq]; simp [BitVec.toNat_add]

/-- The machine's location of an instruction's data operand, by its mode (R124, R139). -/
def locOf (i : Instr) (s : State) : Option Loc :=
  match i.mode, i.operand with
  | .acc, _ => some locAcc
  | .imm, .byte b => some (locImm b)
  | .zp, .byte b => some (locZp b)
  | .zpx, .byte b => some (locZpx b s)
  | .zpy, .byte b => some (locZpy b s)
  | .abs, .word w => some (locAbs w)
  | .abx, .word w => some (locAbx w s)
  | .aby, .word w => some (locAby w s)
  | .izx, .byte b => some (locIzx b s)
  | .izy, .byte b => some (locIzy b s)
  | _, _ => none

/-- A location in memory is the effective address of the table (R139). -/
theorem effAddr_of_locOf {i : Instr} {s : State} {ea : Word} (h : locOf i s = some (.mem ea)) :
    effAddr i s = some ea.toNat := by
  unfold locOf at h
  split at h <;>
    simp only [Option.some.injEq, Loc.mem.injEq, reduceCtorEq, locAcc, locImm, locZp, locZpx, locZpy, locAbs, locAbx,
      locAby, locIzx, locIzy] at h <;>
    subst h <;>
    simp only [effAddr, zext16_toNat, byte_add_toNat, add_zext16_toNat, zpPointer_toNat, *]

/-- What a location reads is what the table reads (R124). -/
theorem sourceByte_of_locOf {i : Instr} {s : State} {op : Loc} (h : locOf i s = some op) :
    sourceByte i s = some (op.read s) := by
  cases op with
  | mem ea =>
    have hmode : i.mode ≠ .acc ∧ i.mode ≠ .imm := by
      constructor <;> intro hm <;> rw [locOf, hm] at h <;> split at h <;> simp_all [locAcc, locImm]
    unfold sourceByte
    split
    · exact absurd ‹_› hmode.1
    · exact absurd ‹_› hmode.2
    · rw [effAddr_of_locOf h]; rfl
  | regA =>
    have hm : i.mode = .acc := by
      unfold locOf at h
      split at h <;> simp_all [locImm, locZp, locZpx, locZpy, locAbs, locAbx, locAby, locIzx, locIzy]
    simp only [sourceByte, hm]
    rfl
  | imm b =>
    have hm : i.mode = .imm ∧ i.operand = .byte b := by
      unfold locOf at h
      split at h <;> simp_all [locAcc, locImm, locZp, locZpx, locZpy, locAbs, locAbx, locAby, locIzx, locIzy]
    simp only [sourceByte, hm]
    rfl

end Sys2Proof.Machine
end

