-- ==== Sys2Proof/Laws/Exec.lean ====
section
/-! SUPPORT. One lemma per shared operation of the instruction families: the whole next state, with SR given by its flags and
memory by its bytes. The meanings are one call of one of these each, so a claim about an instruction cites one lemma. -/

namespace Sys2Proof.Machine

open Sys2Proof.Claims

/-- Setting Z and N from a byte, flag by flag (R140). -/
theorem znFlags (v sr : Byte) (f : Flag) : getFlag f (setZN v sr) = (znOf v f).getD (getFlag f sr) := by
  have h0 : (v == 0#8) = decide (v.toNat = 0) := by
    rw [show (v == 0#8) = decide (v = 0#8) from rfl]
    exact decide_eq_decide.mpr ⟨fun h => by simp [h], fun h => BitVec.eq_of_toNat_eq (by simpa using h)⟩
  cases f <;> simp only [getFlag_setZN, znOf, bit7_eq_decide] <;> first | rfl | exact h0

/-- The carry written before Z and N (R144). -/
theorem cznFlags (c : Bool) (v sr : Byte) (f : Flag) :
    getFlag f (setZN v (setFlag .c c sr)) = (cznOf c v f).getD (getFlag f sr) := by
  rw [znFlags]
  cases f <;> simp [znOf, cznOf]

/-- C, V, Z and N of the adder (R151, R152). -/
theorem cvznFlags (c v : Bool) (r sr : Byte) (f : Flag) :
    getFlag f (setZN r (setFlag .v v (setFlag .c c sr))) = (cvznOf c v r f).getD (getFlag f sr) := by
  rw [znFlags]
  cases f <;> simp [znOf, cznOf, cvznOf]

/-- Sign bits as the claims write them. -/
theorem sameSign_eq (a b : Byte) : sameSign a b = (bit7 a == bit7 b) := by
  simp [sameSign, bit7_eq_decide]

/-- ADC (R151). -/
theorem adc_spec (op : Loc) (s : State) : ∃ r sr' : Byte,
    r.toNat = (s.a.toNat + (op.read s).toNat + (getFlag .c s.sr).toNat) % 256 ∧
    adc op s = { s with a := r, sr := sr' } ∧
    FlagsAre s.sr sr' (cvznOf (decide (255 < s.a.toNat + (op.read s).toNat + (getFlag .c s.sr).toNat))
      (sameSign s.a (op.read s) && !sameSign s.a r) r) := by
  let o := add8 s.a (op.read s) (s.flag .c)
  refine ⟨o.r, setZN o.r (setFlag .v o.v (setFlag .c o.c s.sr)), add8_toNat _ _ _, rfl, fun f => ?_⟩
  have hv : o.v = (sameSign s.a (op.read s) && !sameSign s.a o.r) := by
    rw [sameSign_eq, sameSign_eq]; exact add8_v _ _ _
  rw [cvznFlags, hv]
  rfl

/-- SBC (R152). -/
theorem sbc_spec (op : Loc) (s : State) : ∃ r sr' : Byte,
    r.toNat = (s.a.toNat + 512 - (op.read s).toNat - (!getFlag .c s.sr).toNat) % 256 ∧
    sbc op s = { s with a := r, sr := sr' } ∧
    FlagsAre s.sr sr' (cvznOf (decide ((op.read s).toNat + (!getFlag .c s.sr).toNat ≤ s.a.toNat))
      (!sameSign s.a (op.read s) && !sameSign s.a r) r) := by
  have hm := (op.read s).isLt
  have hn := not_toNat (op.read s)
  let o := sub8 s.a (op.read s) (s.flag .c)
  refine ⟨o.r, setZN o.r (setFlag .v o.v (setFlag .c o.c s.sr)), ?_, rfl, fun f => ?_⟩
  · change (add8 s.a (~~~(op.read s)) (getFlag .c s.sr)).r.toNat = _
    rw [add8_toNat, hn]
    cases getFlag .c s.sr <;> simp <;> omega
  · rw [cvznFlags]
    have hc : o.c =
        decide ((op.read s).toNat + (!getFlag .c s.sr).toNat ≤ s.a.toNat) := by
      change decide (s.a.toNat + (~~~(op.read s)).toNat + (getFlag .c s.sr).toNat > 255) = _
      rw [hn, decide_eq_decide]
      cases getFlag .c s.sr <;> simp <;> omega
    have hv : o.v = (!sameSign s.a (op.read s) && !sameSign s.a o.r) := by
      rw [sameSign_eq, sameSign_eq]
      refine (add8_v _ _ _).trans ?_
      change ((bit7 s.a == bit7 (~~~(op.read s))) && (bit7 s.a != bit7 o.r)) = _
      rw [bit7_not]
      cases bit7 s.a <;> cases bit7 (op.read s) <;> simp
    rw [hc, hv]

/-- A compare (R143). -/
theorem compare_spec (reg : Byte) (op : Loc) (s : State) : ∃ sr' : Byte,
    compare reg op s = { s with sr := sr' } ∧
    FlagsAre s.sr sr' (cznOf (decide ((op.read s).toNat ≤ reg.toNat))
      (BitVec.ofNat 8 (reg.toNat + 256 - (op.read s).toNat))) := by
  refine ⟨cmp8 reg (op.read s) s.sr, rfl, fun f => ?_⟩
  have hr := reg.isLt
  have hm := (op.read s).isLt
  have hd : reg - op.read s = BitVec.ofNat 8 (reg.toNat + 256 - (op.read s).toNat) := by
    apply BitVec.eq_of_toNat_eq
    rw [BitVec.toNat_sub, BitVec.toNat_ofNat]
    congr 1; omega
  have hz : (reg == op.read s) = decide ((BitVec.ofNat 8 (reg.toNat + 256 - (op.read s).toNat)).toNat = 0) := by
    rw [show (reg == op.read s) = decide (reg = op.read s) from rfl, decide_eq_decide, ← BitVec.toNat_inj,
      BitVec.toNat_ofNat]
    omega
  cases f <;> simp [getFlag_cmp8, cznOf, znOf, hz, bit7_eq_decide, hd]

/-- A read-modify-write of A by the shifter (R147). -/
theorem shiftWith_regA (f : Byte → Bool → Shifted) (s : State) : ∃ sr' : Byte,
    shiftWith f .regA s = { s with a := (f s.a (getFlag .c s.sr)).r, sr := sr' } ∧
    FlagsAre s.sr sr' (cznOf (f s.a (getFlag .c s.sr)).c (f s.a (getFlag .c s.sr)).r) :=
  ⟨_, rfl, fun _ => cznFlags _ _ _ _⟩

/-- A read-modify-write of a memory byte by the shifter (R147). -/
theorem shiftWith_mem (f : Byte → Bool → Shifted) (ea : Word) (s : State) :
    let o := f (s.mem.read ea.toNat) (getFlag .c s.sr)
    ∃ (m' : Memory) (sr' : Byte), shiftWith f (.mem ea) s = { s with mem := m', sr := sr' } ∧
      StoresByte s.mem m' ea.toNat o.r ∧ FlagsAre s.sr sr' (cznOf o.c o.r) :=
  ⟨_, _, rfl, fun _ => Memory.read_write _ _ _ _, fun _ => cznFlags _ _ _ _⟩

/-- A read-modify-write of a memory byte that writes Z and N only (R147, R200, R201). -/
theorem modifyWith_mem (f : Byte → Byte) (ea : Word) (s : State) :
    let r := f (s.mem.read ea.toNat)
    ∃ (m' : Memory) (sr' : Byte), modifyWith f (.mem ea) s = { s with mem := m', sr := sr' } ∧
      StoresByte s.mem m' ea.toNat r ∧ FlagsAre s.sr sr' (znOf r) :=
  ⟨_, _, rfl, fun _ => Memory.read_write _ _ _ _, fun _ => znFlags _ _ _⟩

/-- `A <- v; setZN(v)`, and the same for X and Y (R140). -/
theorem loadA_spec (v : Byte) (s : State) : ∃ sr' : Byte,
    loadA v s = { s with a := v, sr := sr' } ∧ FlagsAre s.sr sr' (znOf v) :=
  ⟨_, rfl, fun _ => znFlags _ _ _⟩

theorem loadX_spec (v : Byte) (s : State) : ∃ sr' : Byte,
    loadX v s = { s with x := v, sr := sr' } ∧ FlagsAre s.sr sr' (znOf v) :=
  ⟨_, rfl, fun _ => znFlags _ _ _⟩

theorem loadY_spec (v : Byte) (s : State) : ∃ sr' : Byte,
    loadY v s = { s with y := v, sr := sr' } ∧ FlagsAre s.sr sr' (znOf v) :=
  ⟨_, rfl, fun _ => znFlags _ _ _⟩

/-- A store (R147, R183 to R185). -/
theorem storeMem_spec (ea : Word) (v : Byte) (s : State) : ∃ m' : Memory,
    Loc.write (.mem ea) v s = { s with mem := m' } ∧ StoresByte s.mem m' ea.toNat v :=
  ⟨_, rfl, fun _ => Memory.read_write _ _ _ _⟩

/-- Push (R62). -/
theorem push_spec (s : State) (v : Byte) : ∃ m' : Memory,
    s.push v = { s with mem := m', sp := s.sp - 1 } ∧ StoresByte s.mem m' (stackByte s.sp.toNat) v := by
  refine ⟨s.mem.write (stackAddr s.sp).toNat v, rfl, fun k => ?_⟩
  rw [Memory.read_write, stackAddr_toNat, stackByte, Nat.mod_eq_of_lt s.sp.isLt]

/-- SP one lower, wrapping (R24). -/
theorem sub_one_eq (sp : Byte) : sp - 1 = BitVec.ofNat 8 (sp.toNat + 255) := by
  apply BitVec.eq_of_toNat_eq
  rw [BitVec.toNat_sub, BitVec.toNat_ofNat, Nat.add_comm]; rfl

/-- SP some places higher, wrapping (R24). -/
theorem stackAddr_add (sp : Byte) (k : Nat) :
    (stackAddr (sp + BitVec.ofNat 8 k)).toNat = stackByte (sp.toNat + k) := by
  rw [stackAddr_toNat, stackByte, BitVec.toNat_add, BitVec.toNat_ofNat]
  simp [Nat.add_mod]

/-- A flag written (R220 to R226, R243). -/
theorem setFlag_spec (s : State) (f : Flag) (on : Bool) : ∃ sr' : Byte,
    s.setFlag f on = { s with sr := sr' } ∧ FlagsAre s.sr sr' (only f on) := by
  refine ⟨setFlag f on s.sr, rfl, fun g => ?_⟩
  rw [getFlag_setFlag, only]
  split <;> rfl

/-- A branch (R245 to R252). -/
theorem branch_spec (f : Flag) (on : Bool) (d : Byte) (s : State) :
    branch f on d s = { s with pc := if getFlag f s.sr = on then targetRel d s else s.pc } := by
  unfold branch
  rw [flag_eq]
  split <;> rfl

end Sys2Proof.Machine
end

