-- ==== Sys2Proof/Laws/Instr.lean ====
section
/-! SUPPORT. Which shared operation an instruction is, by its mnemonic, with its operand at the location its mode names: the
case split over the forms of a mnemonic, made once. -/

namespace Sys2Proof.Machine

theorem exec_adc {i : Instr} (s : State) (h : i.mnemonic = .adc) :
    ∃ op, locOf i s = some op ∧ exec i s = .next (adc op s) := by
  cases i <;> first | (cases h; done) | exact ⟨_, rfl, rfl⟩

theorem exec_sbc {i : Instr} (s : State) (h : i.mnemonic = .sbc) :
    ∃ op, locOf i s = some op ∧ exec i s = .next (sbc op s) := by
  cases i <;> first | (cases h; done) | exact ⟨_, rfl, rfl⟩

theorem exec_cmp {i : Instr} (s : State) (h : i.mnemonic = .cmp) :
    ∃ op, locOf i s = some op ∧ exec i s = .next (compare s.a op s) := by
  cases i <;> first | (cases h; done) | exact ⟨_, rfl, rfl⟩

theorem exec_cpx {i : Instr} (s : State) (h : i.mnemonic = .cpx) :
    ∃ op, locOf i s = some op ∧ exec i s = .next (compare s.x op s) := by
  cases i <;> first | (cases h; done) | exact ⟨_, rfl, rfl⟩

theorem exec_cpy {i : Instr} (s : State) (h : i.mnemonic = .cpy) :
    ∃ op, locOf i s = some op ∧ exec i s = .next (compare s.y op s) := by
  cases i <;> first | (cases h; done) | exact ⟨_, rfl, rfl⟩

theorem exec_lda {i : Instr} (s : State) (h : i.mnemonic = .lda) :
    ∃ op, locOf i s = some op ∧ exec i s = .next (loadA (op.read s) s) := by
  cases i <;> first | (cases h; done) | exact ⟨_, rfl, rfl⟩

theorem exec_ldx {i : Instr} (s : State) (h : i.mnemonic = .ldx) :
    ∃ op, locOf i s = some op ∧ exec i s = .next (loadX (op.read s) s) := by
  cases i <;> first | (cases h; done) | exact ⟨_, rfl, rfl⟩

theorem exec_ldy {i : Instr} (s : State) (h : i.mnemonic = .ldy) :
    ∃ op, locOf i s = some op ∧ exec i s = .next (loadY (op.read s) s) := by
  cases i <;> first | (cases h; done) | exact ⟨_, rfl, rfl⟩

theorem exec_and {i : Instr} (s : State) (h : i.mnemonic = .and) :
    ∃ op, locOf i s = some op ∧ exec i s = .next (loadA (s.a &&& op.read s) s) := by
  cases i <;> first | (cases h; done) | exact ⟨_, rfl, rfl⟩

theorem exec_ora {i : Instr} (s : State) (h : i.mnemonic = .ora) :
    ∃ op, locOf i s = some op ∧ exec i s = .next (loadA (s.a ||| op.read s) s) := by
  cases i <;> first | (cases h; done) | exact ⟨_, rfl, rfl⟩

theorem exec_eor {i : Instr} (s : State) (h : i.mnemonic = .eor) :
    ∃ op, locOf i s = some op ∧ exec i s = .next (loadA (s.a ^^^ op.read s) s) := by
  cases i <;> first | (cases h; done) | exact ⟨_, rfl, rfl⟩

theorem exec_bit {i : Instr} (s : State) (h : i.mnemonic = .bit) :
    ∃ op, locOf i s = some op ∧ exec i s = .next ({ s with sr := bitTest s.a (op.read s) s.sr }) := by
  cases i <;> first | (cases h; done) | exact ⟨_, rfl, rfl⟩

theorem exec_sta {i : Instr} (s : State) (h : i.mnemonic = .sta) :
    ∃ ea, locOf i s = some (.mem ea) ∧ exec i s = .next (Loc.write (.mem ea) s.a s) := by
  cases i <;> first | (cases h; done) | exact ⟨_, rfl, rfl⟩

theorem exec_stx {i : Instr} (s : State) (h : i.mnemonic = .stx) :
    ∃ ea, locOf i s = some (.mem ea) ∧ exec i s = .next (Loc.write (.mem ea) s.x s) := by
  cases i <;> first | (cases h; done) | exact ⟨_, rfl, rfl⟩

theorem exec_sty {i : Instr} (s : State) (h : i.mnemonic = .sty) :
    ∃ ea, locOf i s = some (.mem ea) ∧ exec i s = .next (Loc.write (.mem ea) s.y s) := by
  cases i <;> first | (cases h; done) | exact ⟨_, rfl, rfl⟩

theorem exec_inc {i : Instr} (s : State) (h : i.mnemonic = .inc) :
    ∃ ea, locOf i s = some (.mem ea) ∧ exec i s = .next (modifyWith inc8 (.mem ea) s) := by
  cases i <;> first | (cases h; done) | exact ⟨_, rfl, rfl⟩

theorem exec_dec {i : Instr} (s : State) (h : i.mnemonic = .dec) :
    ∃ ea, locOf i s = some (.mem ea) ∧ exec i s = .next (modifyWith dec8 (.mem ea) s) := by
  cases i <;> first | (cases h; done) | exact ⟨_, rfl, rfl⟩

theorem exec_asl {i : Instr} (s : State) (h : i.mnemonic = .asl) :
    (i = .aslAcc ∧ locOf i s = some .regA ∧ exec i s = .next (asl .regA s)) ∨
    (i.mode ≠ .acc ∧ ∃ ea, locOf i s = some (.mem ea) ∧ exec i s = .next (asl (.mem ea) s)) := by
  cases i <;> first | (cases h; done) | exact .inl ⟨rfl, rfl, rfl⟩ | exact .inr ⟨nofun, _, rfl, rfl⟩

theorem exec_lsr {i : Instr} (s : State) (h : i.mnemonic = .lsr) :
    (i = .lsrAcc ∧ locOf i s = some .regA ∧ exec i s = .next (lsr .regA s)) ∨
    (i.mode ≠ .acc ∧ ∃ ea, locOf i s = some (.mem ea) ∧ exec i s = .next (lsr (.mem ea) s)) := by
  cases i <;> first | (cases h; done) | exact .inl ⟨rfl, rfl, rfl⟩ | exact .inr ⟨nofun, _, rfl, rfl⟩

theorem exec_rol {i : Instr} (s : State) (h : i.mnemonic = .rol) :
    (i = .rolAcc ∧ locOf i s = some .regA ∧ exec i s = .next (rol .regA s)) ∨
    (i.mode ≠ .acc ∧ ∃ ea, locOf i s = some (.mem ea) ∧ exec i s = .next (rol (.mem ea) s)) := by
  cases i <;> first | (cases h; done) | exact .inl ⟨rfl, rfl, rfl⟩ | exact .inr ⟨nofun, _, rfl, rfl⟩

theorem exec_ror {i : Instr} (s : State) (h : i.mnemonic = .ror) :
    (i = .rorAcc ∧ locOf i s = some .regA ∧ exec i s = .next (ror .regA s)) ∨
    (i.mode ≠ .acc ∧ ∃ ea, locOf i s = some (.mem ea) ∧ exec i s = .next (ror (.mem ea) s)) := by
  cases i <;> first | (cases h; done) | exact .inl ⟨rfl, rfl, rfl⟩ | exact .inr ⟨nofun, _, rfl, rfl⟩

end Sys2Proof.Machine
end

