-- ==== Sys2Proof/Laws/Shape.lean ====
section
/-! SUPPORT. Everything an instruction can do, said once: the shared operation it is, by its mnemonic, with its operand at the
location its mode names. A claim over all instructions is a case split over `Shape`, not over the forms of Instr. -/

namespace Sys2Proof.Machine

open Sys2Proof.Claims

/-- `Shape i s t`: executing `i` in `s` gives `t`, by this shared operation. -/
inductive Shape (i : Instr) (s : State) : State → Prop
  | adc (op : Loc) (hm : i.mnemonic = .adc) (ho : locOf i s = some op) : Shape i s (adc op s)
  | and (op : Loc) (hm : i.mnemonic = .and) (ho : locOf i s = some op) : Shape i s (loadA (s.a &&& op.read s) s)
  | asl (op : Loc) (hm : i.mnemonic = .asl) (ho : locOf i s = some op) : Shape i s (asl op s)
  | bcc (d : Byte) (hm : i.mnemonic = .bcc) (ho : i = .bcc d) : Shape i s (branch .c false d s)
  | bcs (d : Byte) (hm : i.mnemonic = .bcs) (ho : i = .bcs d) : Shape i s (branch .c true d s)
  | beq (d : Byte) (hm : i.mnemonic = .beq) (ho : i = .beq d) : Shape i s (branch .z true d s)
  | bit (op : Loc) (hm : i.mnemonic = .bit) (ho : locOf i s = some op) : Shape i s ({ s with sr := bitTest s.a (op.read s) s.sr })
  | bmi (d : Byte) (hm : i.mnemonic = .bmi) (ho : i = .bmi d) : Shape i s (branch .n true d s)
  | bne (d : Byte) (hm : i.mnemonic = .bne) (ho : i = .bne d) : Shape i s (branch .z false d s)
  | bpl (d : Byte) (hm : i.mnemonic = .bpl) (ho : i = .bpl d) : Shape i s (branch .n false d s)
  | brk (hm : i.mnemonic = .brk) : Shape i s (s.setFlag .b true)
  | bvc (d : Byte) (hm : i.mnemonic = .bvc) (ho : i = .bvc d) : Shape i s (branch .v false d s)
  | bvs (d : Byte) (hm : i.mnemonic = .bvs) (ho : i = .bvs d) : Shape i s (branch .v true d s)
  | clc (hm : i.mnemonic = .clc) : Shape i s (s.setFlag .c false)
  | cld (hm : i.mnemonic = .cld) : Shape i s (s.setFlag .d false)
  | cli (hm : i.mnemonic = .cli) : Shape i s (s.setFlag .i false)
  | clv (hm : i.mnemonic = .clv) : Shape i s (s.setFlag .v false)
  | cmp (op : Loc) (hm : i.mnemonic = .cmp) (ho : locOf i s = some op) : Shape i s (compare s.a op s)
  | cpx (op : Loc) (hm : i.mnemonic = .cpx) (ho : locOf i s = some op) : Shape i s (compare s.x op s)
  | cpy (op : Loc) (hm : i.mnemonic = .cpy) (ho : locOf i s = some op) : Shape i s (compare s.y op s)
  | dec (ea : Word) (hm : i.mnemonic = .dec) (ho : locOf i s = some (.mem ea)) : Shape i s (modifyWith dec8 (.mem ea) s)
  | dex (hm : i.mnemonic = .dex) : Shape i s (loadX (dec8 s.x) s)
  | dey (hm : i.mnemonic = .dey) : Shape i s (loadY (dec8 s.y) s)
  | eor (op : Loc) (hm : i.mnemonic = .eor) (ho : locOf i s = some op) : Shape i s (loadA (s.a ^^^ op.read s) s)
  | inc (ea : Word) (hm : i.mnemonic = .inc) (ho : locOf i s = some (.mem ea)) : Shape i s (modifyWith inc8 (.mem ea) s)
  | inx (hm : i.mnemonic = .inx) : Shape i s (loadX (inc8 s.x) s)
  | iny (hm : i.mnemonic = .iny) : Shape i s (loadY (inc8 s.y) s)
  | jmp (t : Word) (hm : i.mnemonic = .jmp) (ho : (targetOf i s) = some t.toNat) : Shape i s (jump t s)
  | jsr (w : Word) (hm : i.mnemonic = .jsr) (ho : i = .jsr w) : Shape i s (call w s)
  | lda (op : Loc) (hm : i.mnemonic = .lda) (ho : locOf i s = some op) : Shape i s (loadA (op.read s) s)
  | ldx (op : Loc) (hm : i.mnemonic = .ldx) (ho : locOf i s = some op) : Shape i s (loadX (op.read s) s)
  | ldy (op : Loc) (hm : i.mnemonic = .ldy) (ho : locOf i s = some op) : Shape i s (loadY (op.read s) s)
  | lsr (op : Loc) (hm : i.mnemonic = .lsr) (ho : locOf i s = some op) : Shape i s (lsr op s)
  | nop (hm : i.mnemonic = .nop) : Shape i s (s)
  | ora (op : Loc) (hm : i.mnemonic = .ora) (ho : locOf i s = some op) : Shape i s (loadA (s.a ||| op.read s) s)
  | pha (hm : i.mnemonic = .pha) : Shape i s (s.push s.a)
  | php (hm : i.mnemonic = .php) : Shape i s (s.push s.sr)
  | pla (hm : i.mnemonic = .pla) : Shape i s (pullA s)
  | plp (hm : i.mnemonic = .plp) : Shape i s (pullSr s)
  | rol (op : Loc) (hm : i.mnemonic = .rol) (ho : locOf i s = some op) : Shape i s (rol op s)
  | ror (op : Loc) (hm : i.mnemonic = .ror) (ho : locOf i s = some op) : Shape i s (ror op s)
  | rti (hm : i.mnemonic = .rti) : Shape i s (s.pullStatusAndPc)
  | rts (hm : i.mnemonic = .rts) : Shape i s (ret s)
  | sbc (op : Loc) (hm : i.mnemonic = .sbc) (ho : locOf i s = some op) : Shape i s (sbc op s)
  | sec (hm : i.mnemonic = .sec) : Shape i s (s.setFlag .c true)
  | sed (hm : i.mnemonic = .sed) : Shape i s (s.setFlag .d true)
  | sei (hm : i.mnemonic = .sei) : Shape i s (s.setFlag .i true)
  | sta (ea : Word) (hm : i.mnemonic = .sta) (ho : locOf i s = some (.mem ea)) : Shape i s (Loc.write (.mem ea) s.a s)
  | stx (ea : Word) (hm : i.mnemonic = .stx) (ho : locOf i s = some (.mem ea)) : Shape i s (Loc.write (.mem ea) s.x s)
  | sty (ea : Word) (hm : i.mnemonic = .sty) (ho : locOf i s = some (.mem ea)) : Shape i s (Loc.write (.mem ea) s.y s)
  | tax (hm : i.mnemonic = .tax) : Shape i s (loadX s.a s)
  | tay (hm : i.mnemonic = .tay) : Shape i s (loadY s.a s)
  | tsx (hm : i.mnemonic = .tsx) : Shape i s (loadX s.sp s)
  | txa (hm : i.mnemonic = .txa) : Shape i s (loadA s.x s)
  | txs (hm : i.mnemonic = .txs) : Shape i s ({ s with sp := s.x })
  | tya (hm : i.mnemonic = .tya) : Shape i s (loadA s.y s)

/-- Every instruction has its shape. -/
theorem exec_shape (i : Instr) (s : State) : ∃ t, exec i s = .next t ∧ Shape i s t :=
  match i with
  | .adcAbs _ => ⟨_, rfl, .adc _ rfl rfl⟩
  | .adcAbx _ => ⟨_, rfl, .adc _ rfl rfl⟩
  | .adcAby _ => ⟨_, rfl, .adc _ rfl rfl⟩
  | .adcImm _ => ⟨_, rfl, .adc _ rfl rfl⟩
  | .adcIzx _ => ⟨_, rfl, .adc _ rfl rfl⟩
  | .adcIzy _ => ⟨_, rfl, .adc _ rfl rfl⟩
  | .adcZp _ => ⟨_, rfl, .adc _ rfl rfl⟩
  | .adcZpx _ => ⟨_, rfl, .adc _ rfl rfl⟩
  | .andAbs _ => ⟨_, rfl, .and _ rfl rfl⟩
  | .andAbx _ => ⟨_, rfl, .and _ rfl rfl⟩
  | .andAby _ => ⟨_, rfl, .and _ rfl rfl⟩
  | .andImm _ => ⟨_, rfl, .and _ rfl rfl⟩
  | .andIzx _ => ⟨_, rfl, .and _ rfl rfl⟩
  | .andIzy _ => ⟨_, rfl, .and _ rfl rfl⟩
  | .andZp _ => ⟨_, rfl, .and _ rfl rfl⟩
  | .andZpx _ => ⟨_, rfl, .and _ rfl rfl⟩
  | .aslAcc => ⟨_, rfl, .asl _ rfl rfl⟩
  | .aslAbs _ => ⟨_, rfl, .asl _ rfl rfl⟩
  | .aslAbx _ => ⟨_, rfl, .asl _ rfl rfl⟩
  | .aslZp _ => ⟨_, rfl, .asl _ rfl rfl⟩
  | .aslZpx _ => ⟨_, rfl, .asl _ rfl rfl⟩
  | .bcc _ => ⟨_, rfl, .bcc _ rfl rfl⟩
  | .bcs _ => ⟨_, rfl, .bcs _ rfl rfl⟩
  | .beq _ => ⟨_, rfl, .beq _ rfl rfl⟩
  | .bitAbs _ => ⟨_, rfl, .bit _ rfl rfl⟩
  | .bitZp _ => ⟨_, rfl, .bit _ rfl rfl⟩
  | .bmi _ => ⟨_, rfl, .bmi _ rfl rfl⟩
  | .bne _ => ⟨_, rfl, .bne _ rfl rfl⟩
  | .bpl _ => ⟨_, rfl, .bpl _ rfl rfl⟩
  | .brk => ⟨_, rfl, .brk rfl⟩
  | .bvc _ => ⟨_, rfl, .bvc _ rfl rfl⟩
  | .bvs _ => ⟨_, rfl, .bvs _ rfl rfl⟩
  | .clc => ⟨_, rfl, .clc rfl⟩
  | .cld => ⟨_, rfl, .cld rfl⟩
  | .cli => ⟨_, rfl, .cli rfl⟩
  | .clv => ⟨_, rfl, .clv rfl⟩
  | .cmpAbs _ => ⟨_, rfl, .cmp _ rfl rfl⟩
  | .cmpAbx _ => ⟨_, rfl, .cmp _ rfl rfl⟩
  | .cmpAby _ => ⟨_, rfl, .cmp _ rfl rfl⟩
  | .cmpImm _ => ⟨_, rfl, .cmp _ rfl rfl⟩
  | .cmpIzx _ => ⟨_, rfl, .cmp _ rfl rfl⟩
  | .cmpIzy _ => ⟨_, rfl, .cmp _ rfl rfl⟩
  | .cmpZp _ => ⟨_, rfl, .cmp _ rfl rfl⟩
  | .cmpZpx _ => ⟨_, rfl, .cmp _ rfl rfl⟩
  | .cpxAbs _ => ⟨_, rfl, .cpx _ rfl rfl⟩
  | .cpxImm _ => ⟨_, rfl, .cpx _ rfl rfl⟩
  | .cpxZp _ => ⟨_, rfl, .cpx _ rfl rfl⟩
  | .cpyAbs _ => ⟨_, rfl, .cpy _ rfl rfl⟩
  | .cpyImm _ => ⟨_, rfl, .cpy _ rfl rfl⟩
  | .cpyZp _ => ⟨_, rfl, .cpy _ rfl rfl⟩
  | .decAbs _ => ⟨_, rfl, .dec _ rfl rfl⟩
  | .decAbx _ => ⟨_, rfl, .dec _ rfl rfl⟩
  | .decZp _ => ⟨_, rfl, .dec _ rfl rfl⟩
  | .decZpx _ => ⟨_, rfl, .dec _ rfl rfl⟩
  | .dex => ⟨_, rfl, .dex rfl⟩
  | .dey => ⟨_, rfl, .dey rfl⟩
  | .eorAbs _ => ⟨_, rfl, .eor _ rfl rfl⟩
  | .eorAbx _ => ⟨_, rfl, .eor _ rfl rfl⟩
  | .eorAby _ => ⟨_, rfl, .eor _ rfl rfl⟩
  | .eorImm _ => ⟨_, rfl, .eor _ rfl rfl⟩
  | .eorIzx _ => ⟨_, rfl, .eor _ rfl rfl⟩
  | .eorIzy _ => ⟨_, rfl, .eor _ rfl rfl⟩
  | .eorZp _ => ⟨_, rfl, .eor _ rfl rfl⟩
  | .eorZpx _ => ⟨_, rfl, .eor _ rfl rfl⟩
  | .incAbs _ => ⟨_, rfl, .inc _ rfl rfl⟩
  | .incAbx _ => ⟨_, rfl, .inc _ rfl rfl⟩
  | .incZp _ => ⟨_, rfl, .inc _ rfl rfl⟩
  | .incZpx _ => ⟨_, rfl, .inc _ rfl rfl⟩
  | .inx => ⟨_, rfl, .inx rfl⟩
  | .iny => ⟨_, rfl, .iny rfl⟩
  | .jmpAbs _ => ⟨_, rfl, .jmp _ rfl rfl⟩
  | .jmpInd w => ⟨_, rfl, .jmp _ rfl (congrArg some (targetInd_toNat w s).symm)⟩
  | .jsr _ => ⟨_, rfl, .jsr _ rfl rfl⟩
  | .ldaAbs _ => ⟨_, rfl, .lda _ rfl rfl⟩
  | .ldaAbx _ => ⟨_, rfl, .lda _ rfl rfl⟩
  | .ldaAby _ => ⟨_, rfl, .lda _ rfl rfl⟩
  | .ldaImm _ => ⟨_, rfl, .lda _ rfl rfl⟩
  | .ldaIzx _ => ⟨_, rfl, .lda _ rfl rfl⟩
  | .ldaIzy _ => ⟨_, rfl, .lda _ rfl rfl⟩
  | .ldaZp _ => ⟨_, rfl, .lda _ rfl rfl⟩
  | .ldaZpx _ => ⟨_, rfl, .lda _ rfl rfl⟩
  | .ldxAbs _ => ⟨_, rfl, .ldx _ rfl rfl⟩
  | .ldxAby _ => ⟨_, rfl, .ldx _ rfl rfl⟩
  | .ldxImm _ => ⟨_, rfl, .ldx _ rfl rfl⟩
  | .ldxZp _ => ⟨_, rfl, .ldx _ rfl rfl⟩
  | .ldxZpy _ => ⟨_, rfl, .ldx _ rfl rfl⟩
  | .ldyAbs _ => ⟨_, rfl, .ldy _ rfl rfl⟩
  | .ldyAbx _ => ⟨_, rfl, .ldy _ rfl rfl⟩
  | .ldyImm _ => ⟨_, rfl, .ldy _ rfl rfl⟩
  | .ldyZp _ => ⟨_, rfl, .ldy _ rfl rfl⟩
  | .ldyZpx _ => ⟨_, rfl, .ldy _ rfl rfl⟩
  | .lsrAcc => ⟨_, rfl, .lsr _ rfl rfl⟩
  | .lsrAbs _ => ⟨_, rfl, .lsr _ rfl rfl⟩
  | .lsrAbx _ => ⟨_, rfl, .lsr _ rfl rfl⟩
  | .lsrZp _ => ⟨_, rfl, .lsr _ rfl rfl⟩
  | .lsrZpx _ => ⟨_, rfl, .lsr _ rfl rfl⟩
  | .nop => ⟨_, rfl, .nop rfl⟩
  | .oraAbs _ => ⟨_, rfl, .ora _ rfl rfl⟩
  | .oraAbx _ => ⟨_, rfl, .ora _ rfl rfl⟩
  | .oraAby _ => ⟨_, rfl, .ora _ rfl rfl⟩
  | .oraImm _ => ⟨_, rfl, .ora _ rfl rfl⟩
  | .oraIzx _ => ⟨_, rfl, .ora _ rfl rfl⟩
  | .oraIzy _ => ⟨_, rfl, .ora _ rfl rfl⟩
  | .oraZp _ => ⟨_, rfl, .ora _ rfl rfl⟩
  | .oraZpx _ => ⟨_, rfl, .ora _ rfl rfl⟩
  | .pha => ⟨_, rfl, .pha rfl⟩
  | .php => ⟨_, rfl, .php rfl⟩
  | .pla => ⟨_, rfl, .pla rfl⟩
  | .plp => ⟨_, rfl, .plp rfl⟩
  | .rolAcc => ⟨_, rfl, .rol _ rfl rfl⟩
  | .rolAbs _ => ⟨_, rfl, .rol _ rfl rfl⟩
  | .rolAbx _ => ⟨_, rfl, .rol _ rfl rfl⟩
  | .rolZp _ => ⟨_, rfl, .rol _ rfl rfl⟩
  | .rolZpx _ => ⟨_, rfl, .rol _ rfl rfl⟩
  | .rorAcc => ⟨_, rfl, .ror _ rfl rfl⟩
  | .rorAbs _ => ⟨_, rfl, .ror _ rfl rfl⟩
  | .rorAbx _ => ⟨_, rfl, .ror _ rfl rfl⟩
  | .rorZp _ => ⟨_, rfl, .ror _ rfl rfl⟩
  | .rorZpx _ => ⟨_, rfl, .ror _ rfl rfl⟩
  | .rti => ⟨_, rfl, .rti rfl⟩
  | .rts => ⟨_, rfl, .rts rfl⟩
  | .sbcAbs _ => ⟨_, rfl, .sbc _ rfl rfl⟩
  | .sbcAbx _ => ⟨_, rfl, .sbc _ rfl rfl⟩
  | .sbcAby _ => ⟨_, rfl, .sbc _ rfl rfl⟩
  | .sbcImm _ => ⟨_, rfl, .sbc _ rfl rfl⟩
  | .sbcIzx _ => ⟨_, rfl, .sbc _ rfl rfl⟩
  | .sbcIzy _ => ⟨_, rfl, .sbc _ rfl rfl⟩
  | .sbcZp _ => ⟨_, rfl, .sbc _ rfl rfl⟩
  | .sbcZpx _ => ⟨_, rfl, .sbc _ rfl rfl⟩
  | .sec => ⟨_, rfl, .sec rfl⟩
  | .sed => ⟨_, rfl, .sed rfl⟩
  | .sei => ⟨_, rfl, .sei rfl⟩
  | .staAbs _ => ⟨_, rfl, .sta _ rfl rfl⟩
  | .staAbx _ => ⟨_, rfl, .sta _ rfl rfl⟩
  | .staAby _ => ⟨_, rfl, .sta _ rfl rfl⟩
  | .staIzx _ => ⟨_, rfl, .sta _ rfl rfl⟩
  | .staIzy _ => ⟨_, rfl, .sta _ rfl rfl⟩
  | .staZp _ => ⟨_, rfl, .sta _ rfl rfl⟩
  | .staZpx _ => ⟨_, rfl, .sta _ rfl rfl⟩
  | .stxAbs _ => ⟨_, rfl, .stx _ rfl rfl⟩
  | .stxZp _ => ⟨_, rfl, .stx _ rfl rfl⟩
  | .stxZpy _ => ⟨_, rfl, .stx _ rfl rfl⟩
  | .styAbs _ => ⟨_, rfl, .sty _ rfl rfl⟩
  | .styZp _ => ⟨_, rfl, .sty _ rfl rfl⟩
  | .styZpx _ => ⟨_, rfl, .sty _ rfl rfl⟩
  | .tax => ⟨_, rfl, .tax rfl⟩
  | .tay => ⟨_, rfl, .tay rfl⟩
  | .tsx => ⟨_, rfl, .tsx rfl⟩
  | .txa => ⟨_, rfl, .txa rfl⟩
  | .txs => ⟨_, rfl, .txs rfl⟩
  | .tya => ⟨_, rfl, .tya rfl⟩

/-- The next state of an instruction has its shape. -/
theorem shape_of_exec {i : Instr} {s t : State} (h : exec i s = .next t) : Shape i s t := by
  obtain ⟨u, hu, hs⟩ := exec_shape i s
  rw [hu] at h
  cases h
  exact hs

end Sys2Proof.Machine
end

