-- ==== Sys2Proof/Tests/Slice0.lean ====
section
/-! SUPPORT. The model's own tests. Expected values come from spec/95_test_vectors.md (each test names its vector), the words
from rule R86's table; the last section gives, for every statement with hypotheses, a concrete case that meets them. -/

namespace Sys2Proof.Tests

set_option Elab.async false

open Sys2Proof.Machine Sys2Proof.Claims

/-! ### Well-formedness: each check refuses an ill-formed term -/

theorem test_wf_refuses_illegal_pair : RawInstr.wf ⟨.sta, .imm, .byte 0x10⟩ = false := by decide

theorem test_wf_refuses_wrong_operand_length : RawInstr.wf ⟨.adc, .abs, .byte 0x10⟩ = false := by decide

theorem test_wf_refuses_missing_operand : RawInstr.wf ⟨.bcc, .rel, .none⟩ = false := by decide

theorem test_wf_takes_an_instruction : Instr.wf (.adcAbs 0x1234) = true := by decide

theorem test_wf_refuses_short_map : OpcodeMap.wf [0x01, 0x02] = false := by decide

theorem test_wf_refuses_map_with_one_byte_twice : OpcodeMap.wf (List.replicate 151 0x01) = false := by decide +kernel

theorem test_wf_takes_standard_map : OpcodeMap.wf OpcodeMap.standard = true := by decide +kernel

theorem test_wf_params : Params.wf defaultParams = true ∧ Params.wf ⟨[], .lowFirst, true, 0⟩ = false :=
  ⟨test_wf_takes_standard_map, by decide⟩

/-! ### Decoding: every constructor from a word written out from rule R86 -/

/-- The bytes decode to the instruction and nothing is left over. -/
def decodesTo (bytes : List Byte) (i : Instr) : Bool :=
  match decode bytes with
  | .ok (j, rest) => decide (j = i) && rest.isEmpty
  | .error _ => false

/-- The bytes are rejected for this reason. -/
def rejects (bytes : List Byte) (e : DecodeError) : Bool :=
  match decode bytes with
  | .ok _ => false
  | .error e' => decide (e' = e)

/-- The rows of the mnemonics in A. -/
theorem test_decode_A :
    decodesTo [0x01, 0x12, 0xA4] (.adcAbs 0x12A4) ∧ decodesTo [0x02, 0x12, 0xA4] (.adcAbx 0x12A4) ∧
    decodesTo [0x03, 0x12, 0xA4] (.adcAby 0x12A4) ∧ decodesTo [0x04, 0x9A] (.adcImm 0x9A) ∧
    decodesTo [0x05, 0x9A] (.adcIzx 0x9A) ∧ decodesTo [0x06, 0x9A] (.adcIzy 0x9A) ∧
    decodesTo [0x07, 0x9A] (.adcZp 0x9A) ∧ decodesTo [0x08, 0x9A] (.adcZpx 0x9A) ∧
    decodesTo [0x09, 0x12, 0xA4] (.andAbs 0x12A4) ∧ decodesTo [0x0A, 0x12, 0xA4] (.andAbx 0x12A4) ∧
    decodesTo [0x0B, 0x12, 0xA4] (.andAby 0x12A4) ∧ decodesTo [0x0C, 0x9A] (.andImm 0x9A) ∧
    decodesTo [0x0D, 0x9A] (.andIzx 0x9A) ∧ decodesTo [0x0E, 0x9A] (.andIzy 0x9A) ∧
    decodesTo [0x0F, 0x9A] (.andZp 0x9A) ∧ decodesTo [0x10, 0x9A] (.andZpx 0x9A) ∧ decodesTo [0x11] .aslAcc ∧
    decodesTo [0x12, 0x12, 0xA4] (.aslAbs 0x12A4) ∧ decodesTo [0x13, 0x12, 0xA4] (.aslAbx 0x12A4) ∧
    decodesTo [0x14, 0x9A] (.aslZp 0x9A) ∧ decodesTo [0x15, 0x9A] (.aslZpx 0x9A) := by decide +kernel

/-- The rows of the mnemonics in B. -/
theorem test_decode_B :
    decodesTo [0x16, 0x9A] (.bcc 0x9A) ∧ decodesTo [0x17, 0x9A] (.bcs 0x9A) ∧ decodesTo [0x18, 0x9A] (.beq 0x9A) ∧
    decodesTo [0x19, 0x12, 0xA4] (.bitAbs 0x12A4) ∧ decodesTo [0x1A, 0x9A] (.bitZp 0x9A) ∧
    decodesTo [0x1B, 0x9A] (.bmi 0x9A) ∧ decodesTo [0x1C, 0x9A] (.bne 0x9A) ∧ decodesTo [0x1D, 0x9A] (.bpl 0x9A) ∧
    decodesTo [0x1E] .brk ∧ decodesTo [0x1F, 0x9A] (.bvc 0x9A) ∧ decodesTo [0x20, 0x9A] (.bvs 0x9A) := by decide +kernel

/-- The rows of the mnemonics in C. -/
theorem test_decode_C :
    decodesTo [0x21] .clc ∧ decodesTo [0x22] .cld ∧ decodesTo [0x23] .cli ∧ decodesTo [0x24] .clv ∧
    decodesTo [0x25, 0x12, 0xA4] (.cmpAbs 0x12A4) ∧ decodesTo [0x26, 0x12, 0xA4] (.cmpAbx 0x12A4) ∧
    decodesTo [0x27, 0x12, 0xA4] (.cmpAby 0x12A4) ∧ decodesTo [0x28, 0x9A] (.cmpImm 0x9A) ∧
    decodesTo [0x29, 0x9A] (.cmpIzx 0x9A) ∧ decodesTo [0x2A, 0x9A] (.cmpIzy 0x9A) ∧
    decodesTo [0x2B, 0x9A] (.cmpZp 0x9A) ∧ decodesTo [0x2C, 0x9A] (.cmpZpx 0x9A) ∧
    decodesTo [0x2D, 0x12, 0xA4] (.cpxAbs 0x12A4) ∧ decodesTo [0x2E, 0x9A] (.cpxImm 0x9A) ∧
    decodesTo [0x2F, 0x9A] (.cpxZp 0x9A) ∧ decodesTo [0x30, 0x12, 0xA4] (.cpyAbs 0x12A4) ∧
    decodesTo [0x31, 0x9A] (.cpyImm 0x9A) ∧ decodesTo [0x32, 0x9A] (.cpyZp 0x9A) := by decide +kernel

/-- The rows of the mnemonics in D. -/
theorem test_decode_D :
    decodesTo [0x33, 0x12, 0xA4] (.decAbs 0x12A4) ∧ decodesTo [0x34, 0x12, 0xA4] (.decAbx 0x12A4) ∧
    decodesTo [0x35, 0x9A] (.decZp 0x9A) ∧ decodesTo [0x36, 0x9A] (.decZpx 0x9A) ∧ decodesTo [0x37] .dex ∧
    decodesTo [0x38] .dey := by decide +kernel

/-- The rows of the mnemonics in E. -/
theorem test_decode_E :
    decodesTo [0x39, 0x12, 0xA4] (.eorAbs 0x12A4) ∧ decodesTo [0x3A, 0x12, 0xA4] (.eorAbx 0x12A4) ∧
    decodesTo [0x3B, 0x12, 0xA4] (.eorAby 0x12A4) ∧ decodesTo [0x3C, 0x9A] (.eorImm 0x9A) ∧
    decodesTo [0x3D, 0x9A] (.eorIzx 0x9A) ∧ decodesTo [0x3E, 0x9A] (.eorIzy 0x9A) ∧
    decodesTo [0x3F, 0x9A] (.eorZp 0x9A) ∧ decodesTo [0x40, 0x9A] (.eorZpx 0x9A) := by decide +kernel

/-- The rows of the mnemonics in I. -/
theorem test_decode_I :
    decodesTo [0x41, 0x12, 0xA4] (.incAbs 0x12A4) ∧ decodesTo [0x42, 0x12, 0xA4] (.incAbx 0x12A4) ∧
    decodesTo [0x43, 0x9A] (.incZp 0x9A) ∧ decodesTo [0x44, 0x9A] (.incZpx 0x9A) ∧ decodesTo [0x45] .inx ∧
    decodesTo [0x46] .iny := by decide +kernel

/-- The rows of the mnemonics in J. -/
theorem test_decode_J :
    decodesTo [0x47, 0x12, 0xA4] (.jmpAbs 0x12A4) ∧ decodesTo [0x48, 0x12, 0xA4] (.jmpInd 0x12A4) ∧
    decodesTo [0x49, 0x12, 0xA4] (.jsr 0x12A4) := by decide +kernel

/-- The rows of the mnemonics in L. -/
theorem test_decode_L :
    decodesTo [0x4A, 0x12, 0xA4] (.ldaAbs 0x12A4) ∧ decodesTo [0x4B, 0x12, 0xA4] (.ldaAbx 0x12A4) ∧
    decodesTo [0x4C, 0x12, 0xA4] (.ldaAby 0x12A4) ∧ decodesTo [0x4D, 0x9A] (.ldaImm 0x9A) ∧
    decodesTo [0x4E, 0x9A] (.ldaIzx 0x9A) ∧ decodesTo [0x4F, 0x9A] (.ldaIzy 0x9A) ∧
    decodesTo [0x50, 0x9A] (.ldaZp 0x9A) ∧ decodesTo [0x51, 0x9A] (.ldaZpx 0x9A) ∧
    decodesTo [0x52, 0x12, 0xA4] (.ldxAbs 0x12A4) ∧ decodesTo [0x53, 0x12, 0xA4] (.ldxAby 0x12A4) ∧
    decodesTo [0x54, 0x9A] (.ldxImm 0x9A) ∧ decodesTo [0x55, 0x9A] (.ldxZp 0x9A) ∧
    decodesTo [0x56, 0x9A] (.ldxZpy 0x9A) ∧ decodesTo [0x57, 0x12, 0xA4] (.ldyAbs 0x12A4) ∧
    decodesTo [0x58, 0x12, 0xA4] (.ldyAbx 0x12A4) ∧ decodesTo [0x59, 0x9A] (.ldyImm 0x9A) ∧
    decodesTo [0x5A, 0x9A] (.ldyZp 0x9A) ∧ decodesTo [0x5B, 0x9A] (.ldyZpx 0x9A) ∧ decodesTo [0x5C] .lsrAcc ∧
    decodesTo [0x5D, 0x12, 0xA4] (.lsrAbs 0x12A4) ∧ decodesTo [0x5E, 0x12, 0xA4] (.lsrAbx 0x12A4) ∧
    decodesTo [0x5F, 0x9A] (.lsrZp 0x9A) ∧ decodesTo [0x60, 0x9A] (.lsrZpx 0x9A) := by decide +kernel

/-- The rows of the mnemonics in N. -/
theorem test_decode_N :
    decodesTo [0x61] .nop := by decide +kernel

/-- The rows of the mnemonics in O. -/
theorem test_decode_O :
    decodesTo [0x62, 0x12, 0xA4] (.oraAbs 0x12A4) ∧ decodesTo [0x63, 0x12, 0xA4] (.oraAbx 0x12A4) ∧
    decodesTo [0x64, 0x12, 0xA4] (.oraAby 0x12A4) ∧ decodesTo [0x65, 0x9A] (.oraImm 0x9A) ∧
    decodesTo [0x66, 0x9A] (.oraIzx 0x9A) ∧ decodesTo [0x67, 0x9A] (.oraIzy 0x9A) ∧
    decodesTo [0x68, 0x9A] (.oraZp 0x9A) ∧ decodesTo [0x69, 0x9A] (.oraZpx 0x9A) := by decide +kernel

/-- The rows of the mnemonics in P. -/
theorem test_decode_P :
    decodesTo [0x6A] .pha ∧ decodesTo [0x6B] .php ∧ decodesTo [0x6C] .pla ∧ decodesTo [0x6D] .plp := by decide +kernel

/-- The rows of the mnemonics in R. -/
theorem test_decode_R :
    decodesTo [0x6E] .rolAcc ∧ decodesTo [0x6F, 0x12, 0xA4] (.rolAbs 0x12A4) ∧
    decodesTo [0x70, 0x12, 0xA4] (.rolAbx 0x12A4) ∧ decodesTo [0x71, 0x9A] (.rolZp 0x9A) ∧
    decodesTo [0x72, 0x9A] (.rolZpx 0x9A) ∧ decodesTo [0x73] .rorAcc ∧
    decodesTo [0x74, 0x12, 0xA4] (.rorAbs 0x12A4) ∧ decodesTo [0x75, 0x12, 0xA4] (.rorAbx 0x12A4) ∧
    decodesTo [0x76, 0x9A] (.rorZp 0x9A) ∧ decodesTo [0x77, 0x9A] (.rorZpx 0x9A) ∧ decodesTo [0x78] .rti ∧
    decodesTo [0x79] .rts := by decide +kernel

/-- The rows of the mnemonics in S. -/
theorem test_decode_S :
    decodesTo [0x7A, 0x12, 0xA4] (.sbcAbs 0x12A4) ∧ decodesTo [0x7B, 0x12, 0xA4] (.sbcAbx 0x12A4) ∧
    decodesTo [0x7C, 0x12, 0xA4] (.sbcAby 0x12A4) ∧ decodesTo [0x7D, 0x9A] (.sbcImm 0x9A) ∧
    decodesTo [0x7E, 0x9A] (.sbcIzx 0x9A) ∧ decodesTo [0x7F, 0x9A] (.sbcIzy 0x9A) ∧
    decodesTo [0x80, 0x9A] (.sbcZp 0x9A) ∧ decodesTo [0x81, 0x9A] (.sbcZpx 0x9A) ∧ decodesTo [0x82] .sec ∧
    decodesTo [0x83] .sed ∧ decodesTo [0x84] .sei ∧ decodesTo [0x85, 0x12, 0xA4] (.staAbs 0x12A4) ∧
    decodesTo [0x86, 0x12, 0xA4] (.staAbx 0x12A4) ∧ decodesTo [0x87, 0x12, 0xA4] (.staAby 0x12A4) ∧
    decodesTo [0x88, 0x9A] (.staIzx 0x9A) ∧ decodesTo [0x89, 0x9A] (.staIzy 0x9A) ∧
    decodesTo [0x8A, 0x9A] (.staZp 0x9A) ∧ decodesTo [0x8B, 0x9A] (.staZpx 0x9A) ∧
    decodesTo [0x8C, 0x12, 0xA4] (.stxAbs 0x12A4) ∧ decodesTo [0x8D, 0x9A] (.stxZp 0x9A) ∧
    decodesTo [0x8E, 0x9A] (.stxZpy 0x9A) ∧ decodesTo [0x8F, 0x12, 0xA4] (.styAbs 0x12A4) ∧
    decodesTo [0x90, 0x9A] (.styZp 0x9A) ∧ decodesTo [0x91, 0x9A] (.styZpx 0x9A) := by decide +kernel

/-- The rows of the mnemonics in T. -/
theorem test_decode_T :
    decodesTo [0x92] .tax ∧ decodesTo [0x93] .tay ∧ decodesTo [0x94] .tsx ∧ decodesTo [0x95] .txa ∧
    decodesTo [0x96] .txs ∧ decodesTo [0x97] .tya := by decide +kernel

theorem test_decode_rejects : rejects [0x00] (.unsupportedOpcode 0x00) ∧ rejects [0x98, 0x01] (.unsupportedOpcode 0x98) ∧
    rejects [0xFF] (.unsupportedOpcode 0xFF) ∧ rejects [] .noBytes ∧ rejects [0x01, 0x12] (.truncated 0x01) := by decide +kernel

theorem test_encode_high_byte_first : encode (.staAbs 0x0200) = [0x85, 0x02, 0x00] ∧ encode (.bne 0xFD) = [0x1C, 0xFD] ∧
    encode .brk = [0x1E] := by decide +kernel

theorem test_decodeTableWord : decodeTableWord 8 0x01 = some (.adcAbs 0) ∧ decodeTableWord 24 0x341201 = some (.adcAbs 0x1234) ∧
    decodeTableWord 8 0x00 = none := by decide +kernel

theorem test_branchDisplacement : branchDisplacement 0x0003 0x0002 = some 0xFD ∧ branchDisplacement 0x0010 0xFF92 = some 0x80 ∧
    branchDisplacement 0x0010 0x0091 = some 0x7F ∧ branchDisplacement 0x0010 0x0092 = none := by decide

/-! ### One step: the vectors of spec/95_test_vectors.md -/

/-- A state with bytes at PC and memory cells set. -/
def prep (pc : Word) (bytes : List Byte) (cells : List (Word × Byte)) (s : State) : State :=
  { cells.foldl (fun t c => t.writeMem c.1 c.2) (s.storeBytes pc bytes) with pc := pc }

/-- The states agree, the parameters apart. -/
def same (s t : State) : Bool :=
  s.a == t.a && s.x == t.x && s.y == t.y && s.sp == t.sp && s.pc == t.pc && s.sr == t.sr && decide (s.mem = t.mem) &&
    decide (s.status = t.status) && s.everReset == t.everReset

/-- One step from there gives exactly this change. -/
def gives (pc : Word) (bytes : List Byte) (cells : List (Word × Byte)) (s : State) (change : State → State) : Bool :=
  match step (prep pc bytes cells s) with
  | .next t => same t (change (prep pc bytes cells s))
  | .fault _ => false
  | .refused _ => false

/-- The state after reset. -/
abbrev s0 : State := State.reset

/-- Vector M2. -/
theorem test_ldaZp_M2 : gives 0x0200 [0x50, 0x10] [(0x0010, 0x55)] s0
    (fun t => { t with a := 0x55, pc := 0x0202 }) := by decide +kernel

/-- Vector M3. -/
theorem test_ldaZpx_M3 : gives 0x0200 [0x51, 0xF0] [(0x0010, 0x66), (0x0110, 0x99)] { s0 with x := 0x20 }
    (fun t => { t with a := 0x66, pc := 0x0202 }) := by decide +kernel

/-- Vector M4. -/
theorem test_ldxZpy_M4 : gives 0x0200 [0x56, 0xF0] [(0x0010, 0x01)] { s0 with y := 0x20 }
    (fun t => { t with x := 0x01, pc := 0x0202 }) := by decide +kernel

/-- Vector M5. -/
theorem test_ldaAbs_M5 : gives 0x0200 [0x4A, 0x12, 0x34] [(0x1234, 0x80)] s0
    (fun t => { t with a := 0x80, sr := 0x80, pc := 0x0203 }) := by decide +kernel

/-- Vector M6. -/
theorem test_ldaAbx_M6 : gives 0x0200 [0x4B, 0x12, 0x34] [(0x1244, 0x01)] { s0 with x := 0x10 }
    (fun t => { t with a := 0x01, pc := 0x0203 }) := by decide +kernel

/-- Vector M7. -/
theorem test_ldaAbx_M7 : gives 0x0200 [0x4B, 0xFF, 0xF0] [(0x0010, 0x3C)] { s0 with x := 0x20 }
    (fun t => { t with a := 0x3C, pc := 0x0203 }) := by decide +kernel

/-- Vector M8. -/
theorem test_ldaAby_M8 : gives 0x0200 [0x4C, 0xFF, 0xFF] [(0x0000, 0x11)] { s0 with y := 0x01 }
    (fun t => { t with a := 0x11, pc := 0x0203 }) := by decide +kernel

/-- Vector M9. -/
theorem test_ldaIzx_M9 : gives 0x0200 [0x4E, 0x10] [(0x0014, 0x12), (0x0015, 0x34), (0x1234, 0x99)] { s0 with x := 0x04 }
    (fun t => { t with a := 0x99, sr := 0x80, pc := 0x0202 }) := by decide +kernel

/-- Vector M10. -/
theorem test_ldaIzx_M10 : gives 0x0200 [0x4E, 0xFF] [(0x0000, 0x40), (0x00FF, 0x30), (0x3040, 0x77)] { s0 with x := 0x00 }
    (fun t => { t with a := 0x77, pc := 0x0202 }) := by decide +kernel

/-- Vector M12. -/
theorem test_ldaIzy_M12 : gives 0x0200 [0x4F, 0x10] [(0x0010, 0x12), (0x0011, 0x34), (0x1239, 0xFE)] { s0 with y := 0x05 }
    (fun t => { t with a := 0xFE, sr := 0x80, pc := 0x0202 }) := by decide +kernel

/-- Vector M15. -/
theorem test_jmpInd_M15 : gives 0x0200 [0x48, 0x12, 0xFF] [(0x1200, 0xEE), (0x12FF, 0xAB), (0x1300, 0xCD)] s0
    (fun t => { t with pc := 0xABCD }) := by decide +kernel

/-- Vector M16. -/
theorem test_jmpInd_M16 : gives 0x0200 [0x48, 0x03, 0x00] [(0x0300, 0x34), (0x0301, 0x12)] { s0 with params := { defaultParams with ptrByteOrder := .lowFirst } }
    (fun t => { t with pc := 0x1234 }) := by decide +kernel

/-- Vector M20. -/
theorem test_bne_M20 : gives 0x0010 [0x1C, 0x80] [] s0
    (fun t => { t with pc := 0xFF92 }) := by decide +kernel

/-- Vector M21. -/
theorem test_beq_M21 : gives 0x0010 [0x18, 0x7F] [] { s0 with sr := 0x02 }
    (fun t => { t with pc := 0x0091 }) := by decide +kernel

/-- Vector M22. -/
theorem test_nop_M22 : gives 0xFFFF [0x61] [] s0
    (fun t => { t with pc := 0x0000 }) := by decide +kernel

/-- Vector A1. -/
theorem test_adcImm_A1 : gives 0x0200 [0x04, 0x01] [] { s0 with a := 0x7F }
    (fun t => { t with a := 0x80, sr := 0xC0, pc := 0x0202 }) := by decide +kernel

/-- Vector A6. -/
theorem test_adcImm_A6 : gives 0x0200 [0x04, 0x7F] [] { s0 with a := 0x00, sr := 0x01 }
    (fun t => { t with a := 0x80, sr := 0xC0, pc := 0x0202 }) := by decide +kernel

/-- Vector A8. -/
theorem test_adcZpx_A8 : gives 0x0200 [0x08, 0x10] [(0x0011, 0x02)] { s0 with a := 0x01, x := 0x01, sr := 0x01 }
    (fun t => { t with a := 0x04, sr := 0x00, pc := 0x0202 }) := by decide +kernel

/-- Vector A9. -/
theorem test_adcIzy_A9 : gives 0x0200 [0x06, 0x20] [(0x0020, 0x03), (0x0021, 0x00), (0x0301, 0x80)] { s0 with a := 0x80, y := 0x01 }
    (fun t => { t with a := 0x00, sr := 0x43, pc := 0x0202 }) := by decide +kernel

/-- Vector A11. -/
theorem test_sbcImm_A11 : gives 0x0200 [0x7D, 0x03] [] { s0 with a := 0x05 }
    (fun t => { t with a := 0x01, sr := 0x01, pc := 0x0202 }) := by decide +kernel

/-- Vector A13. -/
theorem test_sbcImm_A13 : gives 0x0200 [0x7D, 0x01] [] { s0 with a := 0x80, sr := 0x01 }
    (fun t => { t with a := 0x7F, sr := 0x41, pc := 0x0202 }) := by decide +kernel

/-- Vector A17. -/
theorem test_cmpImm_A17 : gives 0x0200 [0x28, 0x10] [] { s0 with a := 0x10, sr := 0xFC }
    (fun t => { t with sr := 0x7F, pc := 0x0202 }) := by decide +kernel

/-- Vector A21. -/
theorem test_cmpImm_A21 : gives 0x0200 [0x28, 0x80] [] { s0 with a := 0x00 }
    (fun t => { t with sr := 0x80, pc := 0x0202 }) := by decide +kernel

/-- Vector A23. -/
theorem test_cpxImm_A23 : gives 0x0200 [0x2E, 0x05] [] { s0 with x := 0x03 }
    (fun t => { t with sr := 0x80, pc := 0x0202 }) := by decide +kernel

/-- Vector A24. -/
theorem test_cpxAbs_A24 : gives 0x0200 [0x2D, 0x12, 0x34] [(0x1234, 0xFF)] { s0 with x := 0xFF }
    (fun t => { t with sr := 0x03, pc := 0x0203 }) := by decide +kernel

/-- Vector A25. -/
theorem test_cpyZp_A25 : gives 0x0200 [0x32, 0x20] [(0x0020, 0x40)] { s0 with y := 0x40 }
    (fun t => { t with sr := 0x03, pc := 0x0202 }) := by decide +kernel

/-- Vector A26. -/
theorem test_cpyImm_A26 : gives 0x0200 [0x31, 0x00] [] { s0 with y := 0x81 }
    (fun t => { t with sr := 0x81, pc := 0x0202 }) := by decide +kernel

/-- Vector S2. -/
theorem test_aslAcc_S2 : gives 0x0200 [0x11] [] { s0 with a := 0x80 }
    (fun t => { t with a := 0x00, sr := 0x03, pc := 0x0201 }) := by decide +kernel

/-- Vector S3. -/
theorem test_aslZp_S3 : gives 0x0200 [0x14, 0x10] [(0x0010, 0x40)] { s0 with sr := 0x01 }
    (fun t => { (t.writeMem 0x0010 0x80) with sr := 0x80, pc := 0x0202 }) := by decide +kernel

/-- Vector S5. -/
theorem test_lsrAcc_S5 : gives 0x0200 [0x5C] [] { s0 with a := 0x01 }
    (fun t => { t with a := 0x00, sr := 0x03, pc := 0x0201 }) := by decide +kernel

/-- Vector S6. -/
theorem test_lsrZp_S6 : gives 0x0200 [0x5F, 0x10] [(0x0010, 0x03)] { s0 with sr := 0x81 }
    (fun t => { (t.writeMem 0x0010 0x01) with sr := 0x01, pc := 0x0202 }) := by decide +kernel

/-- Vector S8. -/
theorem test_rolAcc_S8 : gives 0x0200 [0x6E] [] { s0 with a := 0x80, sr := 0x01 }
    (fun t => { t with a := 0x01, pc := 0x0201 }) := by decide +kernel

/-- Vector S9. -/
theorem test_rolAcc_S9 : gives 0x0200 [0x6E] [] { s0 with a := 0x80 }
    (fun t => { t with a := 0x00, sr := 0x03, pc := 0x0201 }) := by decide +kernel

/-- Vector S11. -/
theorem test_rorAcc_S11 : gives 0x0200 [0x73] [] { s0 with a := 0x00, sr := 0x01 }
    (fun t => { t with a := 0x80, sr := 0x80, pc := 0x0201 }) := by decide +kernel

/-- Vector S13. -/
theorem test_rorAbs_S13 : gives 0x0200 [0x74, 0x12, 0x34] [(0x1234, 0x02)] { s0 with sr := 0x01 }
    (fun t => { (t.writeMem 0x1234 0x81) with sr := 0x80, pc := 0x0203 }) := by decide +kernel

/-- Vector L5. -/
theorem test_ldxImm_L5 : gives 0x0200 [0x54, 0x00] [] { s0 with x := 0x12 }
    (fun t => { t with x := 0x00, sr := 0x02, pc := 0x0202 }) := by decide +kernel

/-- Vector L8. -/
theorem test_ldyZpx_L8 : gives 0x0200 [0x5B, 0x10] [(0x0005, 0x7F)] { s0 with x := 0xF5 }
    (fun t => { t with y := 0x7F, pc := 0x0202 }) := by decide +kernel

/-- Vector L9. -/
theorem test_ldyAbx_L9 : gives 0x0200 [0x58, 0x12, 0x34] [(0x1236, 0x90)] { s0 with x := 0x02 }
    (fun t => { t with y := 0x90, sr := 0x80, pc := 0x0203 }) := by decide +kernel

/-- Vector L10. -/
theorem test_staAbs_L10 : gives 0x0200 [0x85, 0x03, 0x00] [] { s0 with a := 0x05, sr := 0x82 }
    (fun t => { (t.writeMem 0x0300 0x05) with pc := 0x0203 }) := by decide +kernel

/-- Vector L11. -/
theorem test_staAbx_L11 : gives 0x0200 [0x86, 0x03, 0x00] [] { s0 with a := 0xAA, x := 0x01 }
    (fun t => { (t.writeMem 0x0301 0xAA) with pc := 0x0203 }) := by decide +kernel

/-- Vector L17. -/
theorem test_stxZpy_L17 : gives 0x0200 [0x8E, 0x10] [] { s0 with x := 0x33, y := 0xFF }
    (fun t => { (t.writeMem 0x000F 0x33) with pc := 0x0202 }) := by decide +kernel

/-- Vector L18. -/
theorem test_stxAbs_L18 : gives 0x0200 [0x8C, 0x12, 0x34] [] { s0 with x := 0x80 }
    (fun t => { (t.writeMem 0x1234 0x80) with pc := 0x0203 }) := by decide +kernel

/-- Vector L19. -/
theorem test_styAbs_L19 : gives 0x0200 [0x8F, 0x12, 0x34] [] { s0 with y := 0x09 }
    (fun t => { (t.writeMem 0x1234 0x09) with pc := 0x0203 }) := by decide +kernel

/-- Vector L20. -/
theorem test_styZpx_L20 : gives 0x0200 [0x91, 0x10] [] { s0 with x := 0x01, y := 0x01 }
    (fun t => { (t.writeMem 0x0011 0x01) with pc := 0x0202 }) := by decide +kernel

/-- Vector L21. -/
theorem test_tax_L21 : gives 0x0200 [0x92] [] { s0 with a := 0x00, x := 0x44 }
    (fun t => { t with x := 0x00, sr := 0x02, pc := 0x0201 }) := by decide +kernel

/-- Vector L22. -/
theorem test_tay_L22 : gives 0x0200 [0x93] [] { s0 with a := 0xC0 }
    (fun t => { t with y := 0xC0, sr := 0x80, pc := 0x0201 }) := by decide +kernel

/-- Vector L23. -/
theorem test_txa_L23 : gives 0x0200 [0x95] [] { s0 with a := 0x80, x := 0x01, sr := 0x80 }
    (fun t => { t with a := 0x01, sr := 0x00, pc := 0x0201 }) := by decide +kernel

/-- Vector L24. -/
theorem test_tya_L24 : gives 0x0200 [0x97] [] { s0 with y := 0xFF }
    (fun t => { t with a := 0xFF, sr := 0x80, pc := 0x0201 }) := by decide +kernel

/-- Vector L25. -/
theorem test_tsx_L25 : gives 0x0200 [0x94] [] { s0 with sp := 0xFD }
    (fun t => { t with x := 0xFD, sr := 0x80, pc := 0x0201 }) := by decide +kernel

/-- Vector L26. -/
theorem test_tsx_L26 : gives 0x0200 [0x94] [] { s0 with x := 0x01, sp := 0x00 }
    (fun t => { t with x := 0x00, sr := 0x02, pc := 0x0201 }) := by decide +kernel

/-- Vector L27. -/
theorem test_txs_L27 : gives 0x0200 [0x96] [] { s0 with x := 0xFF }
    (fun t => { t with sp := 0xFF, pc := 0x0201 }) := by decide +kernel

/-- Vector L28. -/
theorem test_txs_L28 : gives 0x0200 [0x96] [] { s0 with x := 0x00, sp := 0x80 }
    (fun t => { t with sp := 0x00, pc := 0x0201 }) := by decide +kernel

/-- Vector I1. -/
theorem test_incZp_I1 : gives 0x0200 [0x43, 0x10] [(0x0010, 0xFF)] s0
    (fun t => { (t.writeMem 0x0010 0x00) with sr := 0x02, pc := 0x0202 }) := by decide +kernel

/-- Vector I2. -/
theorem test_incAbx_I2 : gives 0x0200 [0x42, 0x12, 0x34] [(0x1235, 0x7F)] { s0 with x := 0x01, sr := 0x41 }
    (fun t => { (t.writeMem 0x1235 0x80) with sr := 0xC1, pc := 0x0203 }) := by decide +kernel

/-- Vector I4. -/
theorem test_decAbx_I4 : gives 0x0200 [0x34, 0x12, 0x34] [(0x1235, 0x01)] { s0 with x := 0x01 }
    (fun t => { (t.writeMem 0x1235 0x00) with sr := 0x02, pc := 0x0203 }) := by decide +kernel

/-- Vector I5. -/
theorem test_decZp_I5 : gives 0x0200 [0x35, 0x10] [] s0
    (fun t => { (t.writeMem 0x0010 0xFF) with sr := 0x80, pc := 0x0202 }) := by decide +kernel

/-- Vector I7. -/
theorem test_inx_I7 : gives 0x0200 [0x45] [] { s0 with x := 0x7F }
    (fun t => { t with x := 0x80, sr := 0x80, pc := 0x0201 }) := by decide +kernel

/-- Vector I8. -/
theorem test_inx_I8 : gives 0x0200 [0x45] [] { s0 with x := 0xFF, sr := 0x01 }
    (fun t => { t with x := 0x00, sr := 0x03, pc := 0x0201 }) := by decide +kernel

/-- Vector I9. -/
theorem test_iny_I9 : gives 0x0200 [0x46] [] { s0 with y := 0x00 }
    (fun t => { t with y := 0x01, pc := 0x0201 }) := by decide +kernel

/-- Vector I10. -/
theorem test_iny_I10 : gives 0x0200 [0x46] [] { s0 with y := 0xFF }
    (fun t => { t with y := 0x00, sr := 0x02, pc := 0x0201 }) := by decide +kernel

/-- Vector I11. -/
theorem test_dex_I11 : gives 0x0200 [0x37] [] { s0 with x := 0x01 }
    (fun t => { t with x := 0x00, sr := 0x02, pc := 0x0201 }) := by decide +kernel

/-- Vector I12. -/
theorem test_dex_I12 : gives 0x0200 [0x37] [] { s0 with x := 0x00 }
    (fun t => { t with x := 0xFF, sr := 0x80, pc := 0x0201 }) := by decide +kernel

/-- Vector I13. -/
theorem test_dey_I13 : gives 0x0200 [0x38] [] { s0 with y := 0x80 }
    (fun t => { t with y := 0x7F, pc := 0x0201 }) := by decide +kernel

/-- Vector I14. -/
theorem test_dey_I14 : gives 0x0200 [0x38] [] { s0 with y := 0x00 }
    (fun t => { t with y := 0xFF, sr := 0x80, pc := 0x0201 }) := by decide +kernel

/-- Vector B1. -/
theorem test_bitZp_B1 : gives 0x0200 [0x1A, 0x10] [(0x0010, 0x41)] { s0 with a := 0x01 }
    (fun t => { t with sr := 0x40, pc := 0x0202 }) := by decide +kernel

/-- Vector B2. -/
theorem test_bitZp_B2 : gives 0x0200 [0x1A, 0x10] [(0x0010, 0xC0)] { s0 with a := 0x3F }
    (fun t => { t with sr := 0xC2, pc := 0x0202 }) := by decide +kernel

/-- Vector B4. -/
theorem test_andImm_B4 : gives 0x0200 [0x0C, 0x0F] [] { s0 with a := 0xF3 }
    (fun t => { t with a := 0x03, pc := 0x0202 }) := by decide +kernel

/-- Vector B5. -/
theorem test_andImm_B5 : gives 0x0200 [0x0C, 0x00] [] { s0 with a := 0xFF, sr := 0x01 }
    (fun t => { t with a := 0x00, sr := 0x03, pc := 0x0202 }) := by decide +kernel

/-- Vector B7. -/
theorem test_oraImm_B7 : gives 0x0200 [0x65, 0x80] [] { s0 with a := 0x01 }
    (fun t => { t with a := 0x81, sr := 0x80, pc := 0x0202 }) := by decide +kernel

/-- Vector B8. -/
theorem test_oraZp_B8 : gives 0x0200 [0x68, 0x10] [] { s0 with a := 0x00 }
    (fun t => { t with sr := 0x02, pc := 0x0202 }) := by decide +kernel

/-- Vector B9. -/
theorem test_eorImm_B9 : gives 0x0200 [0x3C, 0xFF] [] { s0 with a := 0x0F }
    (fun t => { t with a := 0xF0, sr := 0x80, pc := 0x0202 }) := by decide +kernel

/-- Vector B10. -/
theorem test_eorAbx_B10 : gives 0x0200 [0x3A, 0x12, 0x34] [(0x1234, 0x5A)] { s0 with a := 0x5A, x := 0x00 }
    (fun t => { t with a := 0x00, sr := 0x02, pc := 0x0203 }) := by decide +kernel

/-- Vector G1. -/
theorem test_clc_G1 : gives 0x0200 [0x21] [] { s0 with sr := 0x03 }
    (fun t => { t with sr := 0x02, pc := 0x0201 }) := by decide +kernel

/-- Vector G2. -/
theorem test_sec_G2 : gives 0x0200 [0x82] [] s0
    (fun t => { t with sr := 0x01, pc := 0x0201 }) := by decide +kernel

/-- Vector G3. -/
theorem test_cld_G3 : gives 0x0200 [0x22] [] { s0 with sr := 0x08 }
    (fun t => { t with sr := 0x00, pc := 0x0201 }) := by decide +kernel

/-- Vector G4. -/
theorem test_sed_G4 : gives 0x0200 [0x83] [] s0
    (fun t => { t with sr := 0x08, pc := 0x0201 }) := by decide +kernel

/-- Vector G5. -/
theorem test_cli_G5 : gives 0x0200 [0x23] [] { s0 with sr := 0x04 }
    (fun t => { t with sr := 0x00, pc := 0x0201 }) := by decide +kernel

/-- Vector G6. -/
theorem test_sei_G6 : gives 0x0200 [0x84] [] s0
    (fun t => { t with sr := 0x04, pc := 0x0201 }) := by decide +kernel

/-- Vector G7. -/
theorem test_clv_G7 : gives 0x0200 [0x24] [] { s0 with sr := 0xC0 }
    (fun t => { t with sr := 0x80, pc := 0x0201 }) := by decide +kernel

/-- Vector G8. -/
theorem test_sec_G8 : gives 0x0200 [0x82] [] { s0 with sr := 0xFE }
    (fun t => { t with sr := 0xFF, pc := 0x0201 }) := by decide +kernel

/-- Vector G9. -/
theorem test_pha_G9 : gives 0x0200 [0x6A] [] { s0 with a := 0x42, sp := 0xFF }
    (fun t => { (t.writeMem 0x01FF 0x42) with sp := 0xFE, pc := 0x0201 }) := by decide +kernel

/-- Vector G10. -/
theorem test_pha_G10 : gives 0x0200 [0x6A] [] { s0 with a := 0x42, sp := 0x00 }
    (fun t => { (t.writeMem 0x0100 0x42) with sp := 0xFF, pc := 0x0201 }) := by decide +kernel

/-- Vector G11. -/
theorem test_php_G11 : gives 0x0200 [0x6B] [] { s0 with sp := 0xFF, sr := 0x81 }
    (fun t => { (t.writeMem 0x01FF 0x81) with sp := 0xFE, pc := 0x0201 }) := by decide +kernel

/-- Vector G12. -/
theorem test_php_G12 : gives 0x0200 [0x6B] [(0x01FF, 0x77)] { s0 with sp := 0xFF, sr := 0x00 }
    (fun t => { (t.writeMem 0x01FF 0x00) with sp := 0xFE, pc := 0x0201 }) := by decide +kernel

/-- Vector G13. -/
theorem test_pla_G13 : gives 0x0200 [0x6C] [(0x01FF, 0x00)] { s0 with sp := 0xFE }
    (fun t => { t with sp := 0xFF, pc := 0x0201 }) := by decide +kernel

/-- Vector G14. -/
theorem test_pla_G14 : gives 0x0200 [0x6C] [(0x01FF, 0x00)] { s0 with sp := 0xFE, params := { defaultParams with plaSetsNZ := true } }
    (fun t => { t with sp := 0xFF, sr := 0x02, pc := 0x0201 }) := by decide +kernel

/-- Vector G16. -/
theorem test_plp_G16 : gives 0x0200 [0x6D] [(0x01FF, 0xC3)] { s0 with sp := 0xFE }
    (fun t => { t with sp := 0xFF, sr := 0xC3, pc := 0x0201 }) := by decide +kernel

/-- Vector G17. -/
theorem test_plp_G17 : gives 0x0200 [0x6D] [(0x01FF, 0x00)] { s0 with sp := 0xFE, sr := 0xFF }
    (fun t => { t with sp := 0xFF, sr := 0x00, pc := 0x0201 }) := by decide +kernel

/-- Vector G19. -/
theorem test_nop_G19 : gives 0x0010 [0x61] [] { s0 with a := 0x12, sr := 0x81 }
    (fun t => { t with pc := 0x0011 }) := by decide +kernel

/-- Vector C2. -/
theorem test_jmpAbs_C2 : gives 0x0200 [0x47, 0x02, 0x00] [] s0
    (fun t => { t with pc := 0x0200 }) := by decide +kernel

/-- Vector C4. -/
theorem test_jsr_C4 : gives 0x0000 [0x49, 0x00, 0x10] [] { s0 with sp := 0x00 }
    (fun t => { (t.writeMem 0x01FF 0x02) with sp := 0xFE, pc := 0x0010 }) := by decide +kernel

/-- Vector C5. -/
theorem test_jsr_C5 : gives 0x0200 [0x49, 0x12, 0x34] [] { s0 with sp := 0xFF }
    (fun t => { ((t.writeMem 0x01FE 0x02).writeMem 0x01FF 0x02) with sp := 0xFD, pc := 0x1234 }) := by decide +kernel

/-- Vector C7. -/
theorem test_rts_C7 : gives 0x0200 [0x79] [(0x0100, 0x00), (0x01FF, 0x02)] { s0 with sp := 0xFE }
    (fun t => { t with sp := 0x00, pc := 0x0003 }) := by decide +kernel

/-- Vector C8. -/
theorem test_rts_C8 : gives 0x0200 [0x79] [(0x01FE, 0x02), (0x01FF, 0x02)] { s0 with sp := 0xFD }
    (fun t => { t with sp := 0xFF, pc := 0x0203 }) := by decide +kernel

/-- Vector C10. -/
theorem test_brk_C10 : gives 0x0005 [0x1E] [] s0
    (fun t => { t with sr := 0x20, pc := 0x0006 }) := by decide +kernel

/-- Vector C12. -/
theorem test_rti_C12 : gives 0x0200 [0x78] [(0x01FD, 0x01), (0x01FE, 0x34), (0x01FF, 0x12)] { s0 with sp := 0xFC }
    (fun t => { t with sp := 0xFF, sr := 0x01, pc := 0x1234 }) := by decide +kernel

/-- Vector C13. -/
theorem test_rti_C13 : gives 0x0200 [0x78] [(0x01FD, 0xFF), (0x01FE, 0x00), (0x01FF, 0x00)] { s0 with sp := 0xFC, sr := 0x00 }
    (fun t => { t with sp := 0xFF, sr := 0xFF, pc := 0x0000 }) := by decide +kernel

/-- Vector C14. -/
theorem test_bcc_C14 : gives 0x0300 [0x16, 0x04] [] { s0 with sr := 0x00 }
    (fun t => { t with pc := 0x0306 }) := by decide +kernel

/-- Vector C15. -/
theorem test_bcc_C15 : gives 0x0300 [0x16, 0x04] [] { s0 with sr := 0x01 }
    (fun t => { t with pc := 0x0302 }) := by decide +kernel

/-- Vector C16. -/
theorem test_bcs_C16 : gives 0x0300 [0x17, 0x04] [] { s0 with sr := 0x01 }
    (fun t => { t with pc := 0x0306 }) := by decide +kernel

/-- Vector C17. -/
theorem test_bcs_C17 : gives 0x0300 [0x17, 0x04] [] { s0 with sr := 0x00 }
    (fun t => { t with pc := 0x0302 }) := by decide +kernel

/-- Vector C19. -/
theorem test_beq_C19 : gives 0x0300 [0x18, 0x04] [] { s0 with sr := 0x00 }
    (fun t => { t with pc := 0x0302 }) := by decide +kernel

/-- Vector C21. -/
theorem test_bne_C21 : gives 0x0300 [0x1C, 0x04] [] { s0 with sr := 0x02 }
    (fun t => { t with pc := 0x0302 }) := by decide +kernel

/-- Vector C22. -/
theorem test_bmi_C22 : gives 0x0300 [0x1B, 0x04] [] { s0 with sr := 0x80 }
    (fun t => { t with pc := 0x0306 }) := by decide +kernel

/-- Vector C23. -/
theorem test_bmi_C23 : gives 0x0300 [0x1B, 0x04] [] { s0 with sr := 0x00 }
    (fun t => { t with pc := 0x0302 }) := by decide +kernel

/-- Vector C24. -/
theorem test_bpl_C24 : gives 0x0300 [0x1D, 0x04] [] { s0 with sr := 0x00 }
    (fun t => { t with pc := 0x0306 }) := by decide +kernel

/-- Vector C25. -/
theorem test_bpl_C25 : gives 0x0300 [0x1D, 0x04] [] { s0 with sr := 0x80 }
    (fun t => { t with pc := 0x0302 }) := by decide +kernel

/-- Vector C26. -/
theorem test_bvc_C26 : gives 0x0300 [0x1F, 0x04] [] { s0 with sr := 0x00 }
    (fun t => { t with pc := 0x0306 }) := by decide +kernel

/-- Vector C27. -/
theorem test_bvc_C27 : gives 0x0300 [0x1F, 0x04] [] { s0 with sr := 0x40 }
    (fun t => { t with pc := 0x0302 }) := by decide +kernel

/-- Vector C28. -/
theorem test_bvs_C28 : gives 0x0300 [0x20, 0x04] [] { s0 with sr := 0x40 }
    (fun t => { t with pc := 0x0306 }) := by decide +kernel

/-- Vector C29. -/
theorem test_bvs_C29 : gives 0x0300 [0x20, 0x04] [] { s0 with sr := 0x00 }
    (fun t => { t with pc := 0x0302 }) := by decide +kernel

/-- Vector F1. -/
theorem test_unsupported_F1 : gives 0x0200 [0x00] [] { s0 with a := 0x12, sr := 0x81 }
    (fun t => { t with status := .faulted ⟨.unsupportedOpcode, 0x00, 0x0200⟩ }) := by decide +kernel

/-- Vector F4. -/
theorem test_unsupported_F4 : gives 0xFFFF [0x00] [] { s0 with a := 0x12, sr := 0x81 }
    (fun t => { t with status := .faulted ⟨.unsupportedOpcode, 0x00, 0xFFFF⟩ }) := by decide +kernel

/-! ### Reset, the host's ports and runs -/

/-- The state of vector Z1. -/
def z1 : State :=
  { s0 with a := 0x12, x := 0x34, y := 0x56, sp := 0x78, sr := 0xFF, pc := 0xABCD, mem := [(0x1234, 0x99)] }

/-- Vector Z1. -/
theorem test_reset_Z1 : z1.doReset = { s0 with mem := [(0x1234, 0x99)] } := by decide +kernel

/-- Vector Z2. -/
theorem test_reset_Z2 : ({ z1 with status := .faulted ⟨.unsupportedOpcode, 0x00, 0xABCD⟩ } : State).doReset =
    { s0 with mem := [(0x1234, 0x99)] } := by decide +kernel

/-- Vector Z3. -/
theorem test_step_Z3 : gives 0x0000 [] [] s0 (fun t => { t with status := .faulted ⟨.unsupportedOpcode, 0x00, 0x0000⟩ }) := by
  decide +kernel

/-- Vector Z5. -/
theorem test_step_Z5 : step (State.powerOn 1 2 3 4 5 6 defaultParams) = .refused .stepBeforeReset := rfl

theorem test_step_faulted_is_stopped :
    step { s0 with status := .faulted ⟨.unsupportedOpcode, 0x98, 0x0200⟩ } = .fault (.stopped ⟨.unsupportedOpcode, 0x98, 0x0200⟩) := rfl

theorem test_withFetchWord_runs_the_word :
    gives 0x0000 [0x04, 0x7F, 0x00] [] s0 (fun t => { t with a := 0x7F, pc := 0x0002 }) ∧
    (match step (s0.withFetchWord 16 0x7F04) with | .next t => decide (t.a = 0x7F ∧ t.pc = 0x0002) | _ => false) = true := by
  decide +kernel

theorem test_load_then_pull_out_a_byte : (s0.loadImage [0x54, 0x05, 0x37]).mem = [(0, 0x54), (1, 0x05), (2, 0x37)] := by decide

theorem test_port_writes_sr_whole : (s0.writeReg .sr 0x30).readReg .sr = 0x30 := by decide

theorem test_ownRun : ownRun false [.step, .entropy 1, .step] = true ∧ ownRun true [.entropy 1, .entropy 2] = false ∧
    ownRun true [.step, .writePc 0] = false := by decide

/-- The first step of program P1, and the end of a run at once where HOST_STOP already holds. -/
theorem test_runUntil : (match runUntil (fun s => s.pc == 0x0002) [none] (s0.loadImage [0x54, 0x05]) with
    | .normal t => decide (t.x = 0x05) | _ => false) = true ∧ runUntil (fun _ => true) [] s0 = .normal s0 :=
  ⟨by decide +kernel, rfl⟩

/-! ### Witnesses: for each statement with hypotheses, a case that meets all of them -/

/-- Another well-formed opcode map: the default shifted to 0x69 to 0xFF. -/
def otherMap : OpcodeMap := (List.range 151).map fun k => BitVec.ofNat 8 (k + 105)

/-- A state that is ready, with LDA Absolute at 0xFFFE, its operand across the end of the address space. -/
def sWrap : State := prep 0xFFFE [0x4A, 0x12, 0x34] [(0x1234, 0x42)] s0

/-- A state whose step faults. -/
def sBad : State := prep 0x0200 [0x98] [] s0

/-- A faulted state whose record is true. -/
def sFaulted : State := { sBad with status := .faulted ⟨.unsupportedOpcode, 0x98, 0x0200⟩ }

theorem witness_wf_maps : OpcodeMap.wf OpcodeMap.standard = true ∧ OpcodeMap.wf otherMap = true ∧ otherMap ≠ OpcodeMap.standard :=
  ⟨test_wf_takes_standard_map, by decide +kernel, by decide +kernel⟩

/-- DecodeOfEncodeGivesInstrBack, with bytes after the instruction. -/
theorem witness_DecodeOfEncodeGivesInstrBack : ∃ (m : OpcodeMap) (i : Instr) (rest : List Byte),
    OpcodeMap.wf m = true ∧ encodeWith m i ++ rest = [0x69, 0xFF, 0x00, 0x01] :=
  ⟨otherMap, .adcAbs 0xFF00, [0x01], witness_wf_maps.2.1, by decide +kernel⟩

/-- DecodedBytesAreTheEncoding, OperandLengthFollowsMode. -/
theorem witness_DecodedBytesAreTheEncoding : OpcodeMap.wf OpcodeMap.standard = true ∧
    decodeWith OpcodeMap.standard [0x01, 0x12, 0x34, 0x56] = .ok (.adcAbs 0x1234, [0x56]) ∧
    decodeWith OpcodeMap.standard [0x04, 0x12, 0x34] = .ok (.adcImm 0x12, [0x34]) ∧
    decodeWith OpcodeMap.standard [0x97] = .ok (.tya, []) := ⟨test_wf_takes_standard_map, rfl, rfl, rfl⟩

/-- TwoByteOperandsAreHighFirst, the operand across the end of the address space. -/
theorem witness_TwoByteOperandsAreHighFirst : OpcodeMap.wf OpcodeMap.standard = true ∧ (Instr.ldaAbs 0x1234).operand = .word 0x1234 ∧
    sWrap.params.opcodeMap = OpcodeMap.standard ∧ window sWrap = [0x4A, 0x12, 0x34] :=
  ⟨test_wf_takes_standard_map, rfl, rfl, by decide +kernel⟩

/-- UnassignedOpcodeBytesAreRejected, bytes at the edges of the range. -/
theorem witness_UnassignedOpcodeBytesAreRejected : OpcodeMap.wf OpcodeMap.standard = true ∧
    (0x00 : Byte) ∉ OpcodeMap.standard ∧ (0x01 : Byte) ∈ OpcodeMap.standard ∧ (0x97 : Byte) ∈ OpcodeMap.standard ∧
    (0x98 : Byte) ∉ OpcodeMap.standard ∧ (0xFF : Byte) ∉ OpcodeMap.standard :=
  ⟨test_wf_takes_standard_map, by decide +kernel⟩

/-- DecoderCoversExactlyTheLegalPairs, the first and the last pair. -/
theorem witness_DecoderCoversExactlyTheLegalPairs : OpcodeMap.wf OpcodeMap.standard = true ∧
    decodeOpcode OpcodeMap.standard 0x01 = some (.adc, .abs) ∧ legalPair .adc .abs = true ∧
    decodeOpcode OpcodeMap.standard 0x97 = some (.tya, .imp) ∧ legalPair .tya .imp = true :=
  ⟨test_wf_takes_standard_map, by decide +kernel⟩

/-- BranchDisplacementReachesItsLabel, at both ends of the range and across the end of the address space. -/
theorem witness_BranchDisplacementReachesItsLabel :
    branchDisplacement 0x0100 0x0082 = some 0x80 ∧ branchDisplacement 0x0100 0x0181 = some 0x7F ∧
    branchDisplacement 0xFFFD 0x0000 = some 0x01 ∧
    ({ s0 with pc := 0xFFFF } : State).pc = (0xFFFD : Word) + 2 ∧ ({ s0 with pc := 0xFFFF } : State).flag .c = false := by
  decide +kernel

/-- FetchByteReadsAtPcAndAdvances: a fetch across the end of the address space. -/
theorem witness_FetchByteReadsAtPcAndAdvances : ∃ t, sWrap.fetchInstr = some (.ldaAbs 0x1234, t) ∧ t.pc = 0x0001 :=
  ⟨_, rfl, by decide +kernel⟩

/-- StepRunsDecodedInstruction. -/
theorem witness_StepRunsDecodedInstruction : sWrap.Ready ∧
    decodeWith sWrap.params.opcodeMap (window sWrap) = .ok (.ldaAbs 0x1234, []) := ⟨⟨rfl, rfl⟩, rfl⟩

/-- UnsupportedOpcodeStopsTheCore, OnlyUnsupportedOpcodeIsAnException: an unsupported and a supported byte at PC. -/
theorem witness_UnsupportedOpcodeStopsTheCore : sBad.Ready ∧ sBad.params.wf = true ∧ sBad.readMem sBad.pc ∉ sBad.params.opcodeMap ∧
    sWrap.Ready ∧ sWrap.params.wf = true ∧ sWrap.readMem sWrap.pc ∈ sWrap.params.opcodeMap :=
  ⟨⟨rfl, rfl⟩, test_wf_takes_standard_map, by decide +kernel, ⟨rfl, rfl⟩, test_wf_takes_standard_map, by decide +kernel⟩

/-- NoStepWhileFaultedOrBeforeReset, both clauses. -/
theorem witness_NoStepWhileFaultedOrBeforeReset : sFaulted.everReset = true ∧
    sFaulted.status = .faulted ⟨.unsupportedOpcode, 0x98, 0x0200⟩ ∧
    (State.powerOn 0 0 0 0 0 0 defaultParams).everReset = false := ⟨rfl, rfl, rfl⟩

/-- OnlyResetLeavesFaulted: a move that completes. -/
theorem witness_OnlyResetLeavesFaulted : sFaulted.everReset = true ∧
    sFaulted.status = .faulted ⟨.unsupportedOpcode, 0x98, 0x0200⟩ ∧ HostMove.writePc 0x0300 ≠ .reset ∧
    hostMove (.writePc 0x0300) sFaulted = .next { sFaulted with pc := 0x0300 } := ⟨rfl, rfl, by decide, rfl⟩

/-- PowerOnMemoryIsZeroAndResetKeepsMemory. -/
theorem witness_PowerOnMemoryIsZeroAndResetKeepsMemory : hostMove .reset z1 = .next z1.doReset := rfl

/-- LoaderCopiesImageAtOrigin: an image that wraps past 0xFFFF. -/
theorem witness_LoaderCopiesImageAtOrigin : [0x11, 0x22].length ≤ 65536 ∧
    (({ s0 with params := { defaultParams with loadOrigin := 0xFFFF } } : State).loadImage [0x11, 0x22]).mem =
      [(0x0000, 0x22), (0xFFFF, 0x11)] := by decide +kernel

/-- The invariant of three states: one that runs on, one that faults, one that is faulted. -/
theorem witness_inv : sWrap.Inv ∧ sBad.Inv ∧ sFaulted.Inv := by
  refine ⟨⟨by decide +kernel, test_wf_takes_standard_map, fun _ h => nomatch h⟩,
    ⟨by decide +kernel, test_wf_takes_standard_map, fun _ h => nomatch h⟩, by decide +kernel, test_wf_takes_standard_map, ?_⟩
  intro info h
  injection h with h
  subst h
  decide +kernel

/-- StepKeepsInvariant: a step that runs and a step that faults. -/
theorem witness_StepKeepsInvariant : sWrap.Inv ∧ (∃ t, step sWrap = .next t) ∧ sBad.Inv ∧ step sBad = .next sFaulted :=
  ⟨witness_inv.1, ⟨_, rfl⟩, witness_inv.2.1, rfl⟩

/-- HostMovesKeepCanonicalMemoryAndParams. -/
theorem witness_HostMovesKeepCanonicalMemoryAndParams : sWrap.mem.wf = true ∧
    ∃ t, hostMove (.writeMem 0xFFFF 0x00) sWrap = .next t := ⟨by decide +kernel, _, rfl⟩

/-- InstructionsKeepStatusAndParams and the frames: instructions that complete, one of each kind. -/
theorem witness_exec_completes : (∃ t, exec (.adcImm 0x01) s0 = .next t) ∧ (∃ t, exec (.staAbs 0xFFFF) s0 = .next t) ∧
    (∃ t, exec .pha s0 = .next t) ∧ (∃ t, exec .rti s0 = .next t) ∧ ∃ t, exec (.jsr 0x0000) s0 = .next t :=
  ⟨⟨_, rfl⟩, ⟨_, rfl⟩, ⟨_, rfl⟩, ⟨_, rfl⟩, _, rfl⟩

/-- OnlyNamedFlagsAreWritten: a flag outside the list, for PLA under both values of PLA_SETS_NZ as well. -/
theorem witness_OnlyNamedFlagsAreWritten : Flag.d ∉ flagsWritten s0.params .adc ∧ Flag.z ∉ flagsWritten s0.params .pla ∧
    Flag.c ∉ flagsWritten { defaultParams with plaSetsNZ := true } .pla ∧ (∃ t, exec .pla s0 = .next t) ∧
    ∃ t, exec (.adcImm 0x01) s0 = .next t := ⟨by decide, by decide, by decide, ⟨_, rfl⟩, _, rfl⟩

/-- OnlyListedRegistersAreWritten: each clause, ASL on both sides of its own. -/
theorem witness_OnlyListedRegistersAreWritten : writesA (.aslZp 0x10) = false ∧ writesA .aslAcc = true ∧ writesX .txa = false ∧
    writesY (.staIzy 0x10) = false ∧ writesSp .tsx = false ∧ writesPc .brk = false ∧ (∃ t, exec (.aslZp 0x10) s0 = .next t) ∧
    (∃ t, exec .txa s0 = .next t) ∧ (∃ t, exec (.staIzy 0x10) s0 = .next t) ∧ (∃ t, exec .tsx s0 = .next t) ∧
    ∃ t, exec .brk s0 = .next t :=
  ⟨rfl, rfl, rfl, rfl, rfl, rfl, ⟨_, rfl⟩, ⟨_, rfl⟩, ⟨_, rfl⟩, ⟨_, rfl⟩, _, rfl⟩

/-- OnlyStoredBytesChange: the neighbours of the stored byte, of a stack byte at the page's end, and no store at all. -/
theorem witness_OnlyStoredBytesChange : 0xFFFE ∉ storedTo (.staAbs 0xFFFF) s0 ∧ 0x0000 ∉ storedTo (.staAbs 0xFFFF) s0 ∧
    0x0101 ∉ storedTo (.jsr 0x0000) s0 ∧ 0x01FF ∈ storedTo (.jsr 0x0000) s0 ∧ 0x0100 ∈ storedTo (.jsr 0x0000) s0 ∧
    0x0010 ∉ storedTo (.ldaZp 0x10) s0 ∧ ∃ t, exec (.ldaZp 0x10) s0 = .next t :=
  ⟨by decide, by decide, by decide, by decide, by decide, by decide, _, rfl⟩

/-- StorageFlagsChangeNothingElse: all four bits flipped. -/
theorem witness_StorageFlagsChangeNothingElse : (Instr.adcImm 0x01).mnemonic ≠ .php ∧ (0x3C : Byte) &&& ~~~storageBits = 0 ∧
    ∃ t, exec (.adcImm 0x01) s0 = .next t := ⟨by decide, by decide, _, rfl⟩

/-- IndexedAddressesWrap: an instruction in Zero-Page,Y. -/
theorem witness_IndexedAddressesWrap : (Instr.stxZpy 0xF0).mode = .zpy ∧ (Instr.ldxZpy 0xF0).mode = .zpy := ⟨rfl, rfl⟩

/-- The statements about one mnemonic: an instruction for each hypothesis, in a mode at the edge of what it admits. -/
theorem witness_mnemonics : (Instr.adcIzx 0xFF).mnemonic = .adc ∧ (Instr.sbcIzy 0xFF).mnemonic = .sbc ∧
    (Instr.cmpAbx 0xFFFF).mnemonic = .cmp ∧ (Instr.cpxImm 0x00).mnemonic = .cpx ∧ (Instr.cpyZp 0xFF).mnemonic = .cpy ∧
    (Instr.ldaAby 0xFFFF).mnemonic = .lda ∧ (Instr.ldxZpy 0xFF).mnemonic = .ldx ∧ (Instr.ldyZpx 0xFF).mnemonic = .ldy ∧
    (Instr.staIzx 0xFF).mnemonic = .sta ∧ (Instr.stxZpy 0xFF).mnemonic = .stx ∧ (Instr.styZpx 0xFF).mnemonic = .sty ∧
    (Instr.bitAbs 0xFFFF).mnemonic = .bit ∧ (Instr.jmpAbs 0xFFFF).mnemonic = .jmp ∧ (Instr.jmpInd 0xFFFF).mnemonic = .jmp :=
  ⟨rfl, rfl, rfl, rfl, rfl, rfl, rfl, rfl, rfl, rfl, rfl, rfl, rfl, rfl⟩

/-- The read-modify-write statements: both clauses of WritesBack, and INC and DEC, which have no Accumulator mode. -/
theorem witness_writes_back : Instr.aslAcc.mnemonic = .asl ∧ Instr.aslAcc.mode = .acc ∧ (Instr.aslAbs 0xFFFF).mnemonic = .asl ∧
    (Instr.aslAbs 0xFFFF).mode ≠ .acc ∧ Instr.lsrAcc.mnemonic = .lsr ∧ (Instr.lsrZpx 0xFF).mnemonic = .lsr ∧
    Instr.rolAcc.mnemonic = .rol ∧ (Instr.rolZp 0x00).mnemonic = .rol ∧ Instr.rorAcc.mnemonic = .ror ∧
    (Instr.rorAbx 0xFFFF).mnemonic = .ror ∧ (Instr.incZpx 0xFF).mnemonic = .inc ∧ (Instr.incZpx 0xFF).mode ≠ .acc ∧
    (Instr.decAbx 0xFFFF).mnemonic = .dec := by decide

/-- LogicActsBitByBit: each of the three. -/
theorem witness_LogicActsBitByBit : (Instr.andImm 0xFF).mnemonic = .and ∧ (Instr.oraZp 0x00).mnemonic = .ora ∧
    (Instr.eorAby 0xFFFF).mnemonic = .eor := ⟨rfl, rfl, rfl⟩

/-- PullsUndoPushesUpToAFullPage: a full page from the wrapping SP. -/
theorem witness_PullsUndoPushesUpToAFullPage : (List.replicate 256 (0xA5 : Byte)).length ≤ 256 ∧
    (pullAll 3 (pushAll [1, 2, 3] s0)).1 = [3, 2, 1] := by decide +kernel

end Sys2Proof.Tests
end

section
/-! PROOFS. The state family (10_state.md): reset and the run status, what an instruction leaves alone, and the flags
that influence no instruction but PHP. -/

namespace Sys2Proof.Machine

open Sys2Proof.Claims

/-! ### The run status outside a step -/

/-- There is no step in the `Faulted` status (R39). -/
theorem step_of_faulted {s : State} {info : FaultInfo} (hr : s.everReset = true) (hf : s.status = .faulted info) :
    step s = .fault (.stopped info) := by
  simp [step, hr, hf]

/-- There is no step before the first reset (R42, R292). -/
theorem step_of_not_everReset {s : State} (hr : s.everReset = false) : step s = .refused .stepBeforeReset := by
  simp [step, hr]

@[simp] theorem writeReg_status (s : State) (r : Reg8) (v : Byte) : (s.writeReg r v).status = s.status := by
  cases r <;> rfl

@[simp] theorem storeBytes_status (s : State) (n : Word) (bytes : List Byte) :
    (s.storeBytes n bytes).status = s.status := by
  induction bytes generalizing s n with
  | nil => rfl
  | cons b rest ih => exact ih (s.writeMem n b) (n + 1)

/-- Of the host moves that complete in the `Faulted` status, only reset changes it (R43, R290). -/
theorem hostMove_keeps_faulted {m : HostMove} {s t : State} {info : FaultInfo} (hr : s.everReset = true)
    (hf : s.status = .faulted info) (hm : m ≠ .reset) (h : hostMove m s = .next t) : t.status = .faulted info := by
  cases m with
  | reset => exact absurd rfl hm
  | step => exact nomatch (step_of_faulted hr hf).symm.trans h
  | writeReg r v => cases h; exact (writeReg_status s r v).trans hf
  | writePc w => cases h; exact hf
  | writeMem n v => cases h; exact hf
  | load image => cases h; exact (storeBytes_status s _ image).trans hf
  | entropy v => cases h; exact hf

/-- Settles O13: both guards of `step`. -/
theorem noStepWhileFaultedOrBeforeReset : Obligations.NoStepWhileFaultedOrBeforeReset :=
  ⟨fun _ _ hr hf => step_of_faulted hr hf, fun _ hr => step_of_not_everReset hr⟩

/-- Settles O14: a step is stopped, every other move but reset keeps the status. -/
theorem onlyResetLeavesFaulted : Obligations.OnlyResetLeavesFaulted :=
  fun s _ hr hf => ⟨fun _ _ hm h => hostMove_keeps_faulted hr hf hm h, s.doReset, rfl, doReset_status s⟩

/-- Settles O15: each field of `State.reset`, and `Memory.read_nil` for the memory. -/
theorem resetStateIsAllZero : Obligations.ResetStateIsAllZero :=
  ⟨rfl, rfl, rfl, rfl, rfl, rfl, rfl, Memory.read_nil, rfl⟩

/-- Settles O16: `State.doReset` is the state written out. -/
theorem resetRequestZeroesRegistersOnly : Obligations.ResetRequestZeroesRegistersOnly := fun _ => rfl

/-- Settles O21: the memory is empty, the map is the default one, and the status is no fault. -/
theorem resetHasInvariant : Obligations.ResetHasInvariant :=
  ⟨reset_mem_wf, OpcodeMap.standard_wf, fun _ h => nomatch h⟩

/-! ### Whole next states of two shared operations -/

/-- PLA's next state: SP and A always, Z and N where PLA_SETS_NZ says so (R229). -/
theorem pullA_eq (s : State) : pullA s = { s with
    sp := s.sp + 1
    a := s.pull.1
    sr := if s.params.plaSetsNZ then setZN s.pull.1 s.sr else s.sr } := by
  unfold pullA
  change (if s.params.plaSetsNZ = true then _ else _) = _
  cases s.params.plaSetsNZ <;> rfl

/-- Only an instruction in Accumulator mode has A as its operand (R126). -/
theorem mode_eq_acc_of_locOf_regA {i : Instr} {s : State} (h : locOf i s = some .regA) : i.mode = .acc := by
  unfold locOf at h
  split at h <;> simp_all [locImm, locZp, locZpx, locZpy, locAbs, locAbx, locAby, locIzx, locIzy]

/-- Outside Accumulator mode, writing the operand leaves A alone (R124). -/
theorem locWrite_a_of_mode_ne_acc {i : Instr} {s : State} {op : Loc} (v : Byte) (ho : locOf i s = some op)
    (hacc : i.mode ≠ .acc) : (op.write v s).a = s.a := by
  cases op with
  | regA => exact absurd (mode_eq_acc_of_locOf_regA ho) hacc
  | mem ea => rfl
  | imm b => rfl

/-! ### What no instruction changes: the run status, the reset history, the parameters -/

theorem Shape.keeps_status {i : Instr} {s t : State} (h : Shape i s t) :
    t.status = s.status ∧ t.everReset = s.everReset ∧ t.params = s.params := by
  cases h with
  | asl op | lsr op | rol op | ror op =>
    exact ⟨locWrite_status op _ s, locWrite_everReset op _ s, locWrite_params op _ s⟩
  | bcc | bcs | beq | bmi | bne | bpl | bvc | bvs => rw [branch_spec]; exact ⟨rfl, rfl, rfl⟩
  | pla => rw [pullA_eq]; exact ⟨rfl, rfl, rfl⟩
  | _ => exact ⟨rfl, rfl, rfl⟩

/-- Settles O24, by the shapes of an instruction's effect. -/
theorem instructionsKeepStatusAndParams : Obligations.InstructionsKeepStatusAndParams :=
  fun _ _ _ h => (shape_of_exec h).keeps_status

/-! ### The registers an instruction is not listed for (R21 to R24, R121) -/

theorem Shape.keeps_a {i : Instr} {s t : State} (h : Shape i s t) (hw : writesA i = false) : t.a = s.a := by
  cases h with
  | adc _ hm | sbc _ hm | and _ hm | ora _ hm | eor _ hm | lda _ hm | txa hm | tya hm | pla hm =>
    simp [writesA, hm] at hw
  | asl _ hm ho | lsr _ hm ho | rol _ hm ho | ror _ hm ho =>
    have hacc : i.mode ≠ .acc := by simpa [writesA, hm] using hw
    exact locWrite_a_of_mode_ne_acc _ ho hacc
  | bcc | bcs | beq | bmi | bne | bpl | bvc | bvs => rw [branch_spec]
  | _ => rfl

theorem Shape.keeps_x {i : Instr} {s t : State} (h : Shape i s t) (hw : writesX i = false) : t.x = s.x := by
  cases h with
  | ldx _ hm | tax hm | tsx hm | inx hm | dex hm => simp [writesX, hm] at hw
  | asl op | lsr op | rol op | ror op => exact locWrite_x op _ s
  | bcc | bcs | beq | bmi | bne | bpl | bvc | bvs => rw [branch_spec]
  | pla => rw [pullA_eq]
  | _ => rfl

theorem Shape.keeps_y {i : Instr} {s t : State} (h : Shape i s t) (hw : writesY i = false) : t.y = s.y := by
  cases h with
  | ldy _ hm | tay hm | iny hm | dey hm => simp [writesY, hm] at hw
  | asl op | lsr op | rol op | ror op => exact locWrite_y op _ s
  | bcc | bcs | beq | bmi | bne | bpl | bvc | bvs => rw [branch_spec]
  | pla => rw [pullA_eq]
  | _ => rfl

theorem Shape.keeps_sp {i : Instr} {s t : State} (h : Shape i s t) (hw : writesSp i = false) : t.sp = s.sp := by
  cases h with
  | pha hm | php hm | pla hm | plp hm | jsr _ hm | rts hm | rti hm | txs hm => simp [writesSp, hm] at hw
  | asl op | lsr op | rol op | ror op => exact locWrite_sp op _ s
  | bcc | bcs | beq | bmi | bne | bpl | bvc | bvs => rw [branch_spec]
  | _ => rfl

theorem Shape.keeps_pc {i : Instr} {s t : State} (h : Shape i s t) (hw : writesPc i = false) : t.pc = s.pc := by
  cases h with
  | jmp _ hm | jsr _ hm | rts hm | rti hm | bcc _ hm | bcs _ hm | beq _ hm | bmi _ hm | bne _ hm | bpl _ hm | bvc _ hm
  | bvs _ hm => simp [writesPc, hm] at hw
  | asl op | lsr op | rol op | ror op => exact locWrite_pc op _ s
  | pla => rw [pullA_eq]
  | _ => rfl

/-- Settles O26: one frame lemma per register, each by the shapes of an instruction's effect. -/
theorem onlyListedRegistersAreWritten : Obligations.OnlyListedRegistersAreWritten := by
  intro i s t h
  have hs := shape_of_exec h
  exact ⟨hs.keeps_a, hs.keeps_x, hs.keeps_y, hs.keeps_sp, hs.keeps_pc⟩

/-! ### The flags an instruction's rule does not name (R28 to R36) -/

section
variable {f : Flag} (sr : Byte)

theorem getFlag_setFlag_of_not_mem {g : Flag} (hf : f ∉ [g]) (on : Bool) :
    getFlag f (setFlag g on sr) = getFlag f sr := by
  rw [getFlag_setFlag, if_neg (by simpa using hf)]

theorem getFlag_setZN_of_not_mem (hf : f ∉ [Flag.z, .n]) (v : Byte) : getFlag f (setZN v sr) = getFlag f sr := by
  obtain ⟨hz, hn⟩ : f ≠ .z ∧ f ≠ .n := by simpa using hf
  rw [getFlag_setZN, if_neg hn, if_neg hz]

theorem getFlag_setZN_setFlag_c_of_not_mem (hf : f ∉ [Flag.c, .z, .n]) (c : Bool) (v : Byte) :
    getFlag f (setZN v (setFlag .c c sr)) = getFlag f sr := by
  obtain ⟨hc, hzn⟩ : f ∉ [Flag.c] ∧ f ∉ [Flag.z, .n] := by simpa using hf
  rw [getFlag_setZN_of_not_mem _ hzn, getFlag_setFlag_of_not_mem _ hc]

theorem getFlag_setZN_setFlag_cv_of_not_mem (hf : f ∉ [Flag.c, .v, .z, .n]) (c v : Bool) (r : Byte) :
    getFlag f (setZN r (setFlag .v v (setFlag .c c sr))) = getFlag f sr := by
  obtain ⟨hc, hv, hzn⟩ : f ∉ [Flag.c] ∧ f ∉ [Flag.v] ∧ f ∉ [Flag.z, .n] := by simpa using hf
  rw [getFlag_setZN_of_not_mem _ hzn, getFlag_setFlag_of_not_mem _ hv, getFlag_setFlag_of_not_mem _ hc]

theorem getFlag_cmp8_of_not_mem (hf : f ∉ [Flag.c, .z, .n]) (r m : Byte) :
    getFlag f (cmp8 r m sr) = getFlag f sr := by
  obtain ⟨hc, hz, hn⟩ : f ≠ .c ∧ f ≠ .z ∧ f ≠ .n := by simpa using hf
  rw [getFlag_cmp8, if_neg hn, if_neg hz, if_neg hc]

theorem getFlag_bitTest_of_not_mem (hf : f ∉ [Flag.n, .v, .z]) (a m : Byte) :
    getFlag f (bitTest a m sr) = getFlag f sr := by
  obtain ⟨hn, hv, hz⟩ : f ≠ .n ∧ f ≠ .v ∧ f ≠ .z := by simpa using hf
  rw [getFlag_bitTest, if_neg hz, if_neg hv, if_neg hn]

end

/-- PLA writes the flags that its entry of `flagsWritten` lists under either value of PLA_SETS_NZ (R229). -/
theorem getFlag_pullA_of_not_mem {f : Flag} {s : State} (hf : f ∉ flagsWritten s.params .pla) :
    getFlag f (pullA s).sr = getFlag f s.sr := by
  rw [pullA_eq]
  by_cases hp : s.params.plaSetsNZ = true
  · simp only [flagsWritten, hp, if_true] at hf ⊢
    exact getFlag_setZN_of_not_mem s.sr hf _
  · simp [hp]

theorem Shape.keeps_flag {i : Instr} {s t : State} {f : Flag} (h : Shape i s t)
    (hf : f ∉ flagsWritten s.params i.mnemonic) : getFlag f t.sr = getFlag f s.sr := by
  cases h with
  | adc _ hm | sbc _ hm => rw [hm] at hf; exact getFlag_setZN_setFlag_cv_of_not_mem s.sr hf _ _ _
  | cmp _ hm | cpx _ hm | cpy _ hm => rw [hm] at hf; exact getFlag_cmp8_of_not_mem s.sr hf _ _
  | asl op hm | lsr op hm | rol op hm | ror op hm =>
    rw [hm] at hf
    refine (getFlag_setZN_setFlag_c_of_not_mem _ hf _ _).trans ?_
    rw [locWrite_sr]
  | lda _ hm | ldx _ hm | ldy _ hm | and _ hm | ora _ hm | eor _ hm | inc _ hm | dec _ hm | tax hm | tay hm | txa hm
  | tya hm | tsx hm | inx hm | iny hm | dex hm | dey hm => rw [hm] at hf; exact getFlag_setZN_of_not_mem s.sr hf _
  | bit _ hm => rw [hm] at hf; exact getFlag_bitTest_of_not_mem s.sr hf _ _
  | clc hm | sec hm | cld hm | sed hm | cli hm | sei hm | clv hm | brk hm =>
    rw [hm] at hf; exact getFlag_setFlag_of_not_mem s.sr hf _
  | pla hm => rw [hm] at hf; exact getFlag_pullA_of_not_mem hf
  | plp hm | rti hm => rw [hm] at hf; cases f <;> simp [flagsWritten] at hf
  | bcc | bcs | beq | bmi | bne | bpl | bvc | bvs => rw [branch_spec]
  | sta | stx | sty | txs | pha | php | nop | jmp | jsr | rts => rfl

/-- Settles O25: the flag computations leave the flags outside their lists, by the shapes of an instruction's effect. -/
theorem onlyNamedFlagsAreWritten : Obligations.OnlyNamedFlagsAreWritten :=
  fun _ _ _ _ h hf => (shape_of_exec h).keeps_flag hf

/-! ### The flags B, R, D and I (R31 to R34): two runs side by side -/

@[simp] theorem getFlag_xor (f : Flag) (p q : Byte) : getFlag f (p ^^^ q) = (getFlag f p != getFlag f q) := by
  simp [getFlag]

/-- Writing a flag after flipping bits: a flip of that flag is lost, every other flip stays. -/
theorem setFlag_xor (f : Flag) (on : Bool) (sr k : Byte) :
    setFlag f on (sr ^^^ k) = setFlag f on sr ^^^ setFlag f false k := by
  refine sr_ext fun g => ?_
  by_cases hg : g = f <;> simp [hg]

theorem setFlag_false_of_clear {f : Flag} {k : Byte} (hf : getFlag f k = false) : setFlag f false k = k := by
  refine sr_ext fun g => ?_
  by_cases hg : g = f <;> simp [hg, hf]

theorem setFlag_false_subset (f : Flag) (k : Byte) : setFlag f false k &&& ~~~k = 0 := by
  change k &&& ~~~f.mask &&& ~~~k = 0
  rw [BitVec.and_comm k, BitVec.and_assoc, BitVec.and_not_self]
  exact BitVec.and_zero

/-- The state with the bits `k` of SR flipped. -/
def State.flipSr (s : State) (k : Byte) : State := { s with sr := s.sr ^^^ k }

/-- Which of the flipped bits `k` are still flipped after an instruction: all of them, but for a flag that it sets or
clears, and none where SR is pulled. -/
def flipsLeft (k : Byte) : Mnemonic → Byte
  | .brk => setFlag .b false k
  | .cld | .sed => setFlag .d false k
  | .cli | .sei => setFlag .i false k
  | .plp | .rti => 0
  | _ => k

theorem flipsLeft_subset (k : Byte) (mn : Mnemonic) : flipsLeft k mn &&& ~~~k = 0 := by
  cases mn with
  | brk | cld | sed | cli | sei => exact setFlag_false_subset _ k
  | plp | rti => exact BitVec.zero_and
  | _ => exact BitVec.and_not_self k

theorem locRead_flipSr (op : Loc) (s : State) (k : Byte) : op.read (s.flipSr k) = op.read s := by cases op <;> rfl

theorem locWrite_flipSr (op : Loc) (v : Byte) (s : State) (k : Byte) :
    op.write v (s.flipSr k) = (op.write v s).flipSr k := by cases op <;> rfl

/-- Setting or clearing a flag forgets whether it was flipped. -/
theorem setFlag_flipSr (f : Flag) (on : Bool) (s : State) (k : Byte) :
    (s.flipSr k).setFlag f on = (s.setFlag f on).flipSr (setFlag f false k) :=
  congrArg (fun sr => ({ s with sr } : State)) (setFlag_xor f on s.sr k)

theorem pullSr_flipSr (s : State) (k : Byte) : pullSr (s.flipSr k) = (pullSr s).flipSr 0 :=
  congrArg (fun sr => ({ pullSr s with sr } : State)) BitVec.xor_zero.symm

theorem pullStatusAndPc_flipSr (s : State) (k : Byte) :
    (s.flipSr k).pullStatusAndPc = s.pullStatusAndPc.flipSr 0 :=
  congrArg (fun sr => ({ s.pullStatusAndPc with sr } : State)) BitVec.xor_zero.symm

section
variable {k : Byte} (hk : k &&& ~~~storageBits = 0)
include hk

/-- C, Z, V and N are not among the bits `k`. -/
theorem getFlag_of_storage {f : Flag} (hf : getFlag f storageBits = false) : getFlag f k = false := by
  have hmask : getFlag f (~~~storageBits) = !getFlag f storageBits := by cases f <;> rfl
  have h : getFlag f (k &&& ~~~storageBits) = false := by rw [hk]; exact BitVec.getLsbD_zero
  rwa [getFlag, BitVec.getLsbD_and, ← getFlag, ← getFlag, hmask, hf, Bool.not_false, Bool.and_true] at h

theorem flag_flipSr {f : Flag} (hf : getFlag f storageBits = false) (s : State) : (s.flipSr k).flag f = s.flag f := by
  change getFlag f (s.sr ^^^ k) = getFlag f s.sr
  rw [getFlag_xor, getFlag_of_storage hk hf, Bool.bne_false]

theorem setFlag_xor_storage {f : Flag} (hf : getFlag f storageBits = false) (on : Bool) (sr : Byte) :
    setFlag f on (sr ^^^ k) = setFlag f on sr ^^^ k := by
  rw [setFlag_xor, setFlag_false_of_clear (getFlag_of_storage hk hf)]

theorem setZN_xor_storage (v sr : Byte) : setZN v (sr ^^^ k) = setZN v sr ^^^ k := by
  rw [setZN, setFlag_xor_storage hk rfl, setFlag_xor_storage hk rfl, setZN]

theorem cmp8_xor_storage (r m sr : Byte) : cmp8 r m (sr ^^^ k) = cmp8 r m sr ^^^ k := by
  rw [cmp8, setFlag_xor_storage hk rfl, setFlag_xor_storage hk rfl, setFlag_xor_storage hk rfl]
  rfl

theorem bitTest_xor_storage (a m sr : Byte) : bitTest a m (sr ^^^ k) = bitTest a m sr ^^^ k := by
  rw [bitTest, setFlag_xor_storage hk rfl, setFlag_xor_storage hk rfl, setFlag_xor_storage hk rfl, bitTest]

theorem setFlag_flipSr_storage {f : Flag} (hf : getFlag f storageBits = false) (on : Bool) (s : State) :
    (s.flipSr k).setFlag f on = (s.setFlag f on).flipSr k :=
  congrArg (fun sr => ({ s with sr } : State)) (setFlag_xor_storage hk hf on s.sr)

theorem setZN_flipSr (v : Byte) (s : State) : (s.flipSr k).setZN v = (s.setZN v).flipSr k :=
  congrArg (fun sr => ({ s with sr } : State)) (setZN_xor_storage hk v s.sr)

theorem loadA_flipSr (v : Byte) (s : State) : loadA v (s.flipSr k) = (loadA v s).flipSr k :=
  setZN_flipSr hk v { s with a := v }

theorem loadX_flipSr (v : Byte) (s : State) : loadX v (s.flipSr k) = (loadX v s).flipSr k :=
  setZN_flipSr hk v { s with x := v }

theorem loadY_flipSr (v : Byte) (s : State) : loadY v (s.flipSr k) = (loadY v s).flipSr k :=
  setZN_flipSr hk v { s with y := v }

/-- The adder's flags, for ADC and SBC. -/
theorem setCVZN_flipSr (o : Sum) (s : State) :
    ((({ s.flipSr k with a := o.r } : State).setFlag .c o.c).setFlag .v o.v).setZN o.r =
      (((({ s with a := o.r } : State).setFlag .c o.c).setFlag .v o.v).setZN o.r).flipSr k := by
  change (((({ s with a := o.r } : State).flipSr k).setFlag .c o.c).setFlag .v o.v).setZN o.r = _
  rw [setFlag_flipSr_storage hk rfl, setFlag_flipSr_storage hk rfl, setZN_flipSr hk]

theorem adc_flipSr (op : Loc) (s : State) : adc op (s.flipSr k) = (adc op s).flipSr k := by
  unfold adc
  rw [locRead_flipSr, flag_flipSr hk rfl]
  exact setCVZN_flipSr hk _ s

theorem sbc_flipSr (op : Loc) (s : State) : sbc op (s.flipSr k) = (sbc op s).flipSr k := by
  unfold sbc
  rw [locRead_flipSr, flag_flipSr hk rfl]
  exact setCVZN_flipSr hk _ s

theorem compare_flipSr (reg : Byte) (op : Loc) (s : State) :
    compare reg op (s.flipSr k) = (compare reg op s).flipSr k := by
  unfold compare
  rw [locRead_flipSr]
  exact congrArg (fun sr => ({ s with sr } : State)) (cmp8_xor_storage hk _ _ s.sr)

theorem bitTest_flipSr (m : Byte) (s : State) :
    ({ s.flipSr k with sr := bitTest s.a m (s.flipSr k).sr } : State) =
      ({ s with sr := bitTest s.a m s.sr } : State).flipSr k :=
  congrArg (fun sr => ({ s with sr } : State)) (bitTest_xor_storage hk _ _ s.sr)

theorem shiftWith_flipSr (f : Byte → Bool → Shifted) (op : Loc) (s : State) :
    shiftWith f op (s.flipSr k) = (shiftWith f op s).flipSr k := by
  simp only [shiftWith, locRead_flipSr, flag_flipSr hk (f := .c) rfl, locWrite_flipSr,
    setFlag_flipSr_storage hk (f := .c) rfl, setZN_flipSr hk]

theorem modifyWith_flipSr (f : Byte → Byte) (op : Loc) (s : State) :
    modifyWith f op (s.flipSr k) = (modifyWith f op s).flipSr k := by
  simp only [modifyWith, locRead_flipSr, locWrite_flipSr, setZN_flipSr hk]

theorem branch_flipSr {f : Flag} (hf : getFlag f storageBits = false) (on : Bool) (d : Byte) (s : State) :
    branch f on d (s.flipSr k) = (branch f on d s).flipSr k := by
  unfold branch
  rw [flag_flipSr hk hf]
  split <;> rfl

theorem pullA_flipSr (s : State) : pullA (s.flipSr k) = (pullA s).flipSr k := by
  unfold pullA
  change (if s.params.plaSetsNZ = true then loadA _ (s.pull.2.flipSr k) else _) =
    State.flipSr (if s.params.plaSetsNZ = true then _ else _) k
  split
  · exact loadA_flipSr hk _ _
  · rfl

/-- B, R, D and I reach no other field and no other flag of the next state, PHP's apart. The operand's location and
value do not depend on SR, so one lemma per shared operation closes every mode. -/
theorem exec_flipSr (i : Instr) (s : State) (hi : i.mnemonic ≠ .php) :
    ∃ t, exec i s = .next t ∧ exec i (s.flipSr k) = .next (t.flipSr (flipsLeft k i.mnemonic)) := by
  cases i with
  | php => exact absurd rfl hi
  | adcAbs | adcAbx | adcAby | adcImm | adcIzx | adcIzy | adcZp | adcZpx =>
    exact ⟨_, rfl, congrArg Host.Outcome.next (adc_flipSr hk _ s)⟩
  | sbcAbs | sbcAbx | sbcAby | sbcImm | sbcIzx | sbcIzy | sbcZp | sbcZpx =>
    exact ⟨_, rfl, congrArg Host.Outcome.next (sbc_flipSr hk _ s)⟩
  | cmpAbs | cmpAbx | cmpAby | cmpImm | cmpIzx | cmpIzy | cmpZp | cmpZpx | cpxAbs | cpxImm | cpxZp | cpyAbs
  | cpyImm | cpyZp => exact ⟨_, rfl, congrArg Host.Outcome.next (compare_flipSr hk _ _ s)⟩
  | aslAcc | aslAbs | aslAbx | aslZp | aslZpx | lsrAcc | lsrAbs | lsrAbx | lsrZp | lsrZpx | rolAcc | rolAbs
  | rolAbx | rolZp | rolZpx | rorAcc | rorAbs | rorAbx | rorZp | rorZpx =>
    exact ⟨_, rfl, congrArg Host.Outcome.next (shiftWith_flipSr hk _ _ s)⟩
  | incAbs | incAbx | incZp | incZpx | decAbs | decAbx | decZp | decZpx =>
    exact ⟨_, rfl, congrArg Host.Outcome.next (modifyWith_flipSr hk _ _ s)⟩
  | andAbs | andAbx | andAby | andImm | andIzx | andIzy | andZp | andZpx | oraAbs | oraAbx | oraAby | oraImm
  | oraIzx | oraIzy | oraZp | oraZpx | eorAbs | eorAbx | eorAby | eorImm | eorIzx | eorIzy | eorZp | eorZpx
  | ldaAbs | ldaAbx | ldaAby | ldaImm | ldaIzx | ldaIzy | ldaZp | ldaZpx | txa | tya =>
    exact ⟨_, rfl, congrArg Host.Outcome.next (loadA_flipSr hk _ s)⟩
  | ldxAbs | ldxAby | ldxImm | ldxZp | ldxZpy | tax | tsx | inx | dex =>
    exact ⟨_, rfl, congrArg Host.Outcome.next (loadX_flipSr hk _ s)⟩
  | ldyAbs | ldyAbx | ldyImm | ldyZp | ldyZpx | tay | iny | dey =>
    exact ⟨_, rfl, congrArg Host.Outcome.next (loadY_flipSr hk _ s)⟩
  | bitAbs | bitZp => exact ⟨_, rfl, congrArg Host.Outcome.next (bitTest_flipSr hk _ s)⟩
  | bcc | bcs | beq | bmi | bne | bpl | bvc | bvs =>
    exact ⟨_, rfl, congrArg Host.Outcome.next (branch_flipSr hk rfl _ _ s)⟩
  | staAbs | staAbx | staAby | staIzx | staIzy | staZp | staZpx | stxAbs | stxZp | stxZpy | styAbs | styZp
  | styZpx => exact ⟨_, rfl, congrArg Host.Outcome.next (locWrite_flipSr _ _ s k)⟩
  | clc | sec | clv => exact ⟨_, rfl, congrArg Host.Outcome.next (setFlag_flipSr_storage hk rfl _ s)⟩
  | brk | cld | sed | cli | sei => exact ⟨_, rfl, congrArg Host.Outcome.next (setFlag_flipSr _ _ s k)⟩
  | pla => exact ⟨_, rfl, congrArg Host.Outcome.next (pullA_flipSr hk s)⟩
  | plp => exact ⟨_, rfl, congrArg Host.Outcome.next (pullSr_flipSr s k)⟩
  | rti => exact ⟨_, rfl, congrArg Host.Outcome.next (pullStatusAndPc_flipSr s k)⟩
  | txs | pha | nop | jmpAbs | jmpInd | jsr | rts => exact ⟨_, rfl, rfl⟩

end

/-- Settles O28: `exec_flipSr`, and what is left of a flip is a part of it. -/
theorem storageFlagsChangeNothingElse : Obligations.StorageFlagsChangeNothingElse := by
  intro i s t k hi hk h
  obtain ⟨u, hu, hflip⟩ := exec_flipSr hk i s hi
  obtain rfl : u = t := Host.Outcome.next.inj (hu.symm.trans h)
  exact ⟨flipsLeft k i.mnemonic, flipsLeft_subset k i.mnemonic, hflip⟩

end Sys2Proof.Machine
end

section
/-! PROOFS. The memory family (20_memory.md): what the instructions store and the invariant that every step keeps, the
byte order of operands, the stack, and the host's ports to memory. -/

namespace Sys2Proof.Laws.Table

/-- The lemmas of Sys2Proof/Laws/PerInstr.lean as one, for every instruction. -/
theorem statement : ∀ i : Instr, Statement i
  | .adcAbs w => adcAbs w | .adcAbx w => adcAbx w | .adcAby w => adcAby w | .adcImm b => adcImm b
  | .adcIzx b => adcIzx b | .adcIzy b => adcIzy b | .adcZp b => adcZp b | .adcZpx b => adcZpx b
  | .andAbs w => andAbs w | .andAbx w => andAbx w | .andAby w => andAby w | .andImm b => andImm b
  | .andIzx b => andIzx b | .andIzy b => andIzy b | .andZp b => andZp b | .andZpx b => andZpx b | .aslAcc => aslAcc
  | .aslAbs w => aslAbs w | .aslAbx w => aslAbx w | .aslZp b => aslZp b | .aslZpx b => aslZpx b | .bcc b => bcc b
  | .bcs b => bcs b | .beq b => beq b | .bitAbs w => bitAbs w | .bitZp b => bitZp b | .bmi b => bmi b
  | .bne b => bne b | .bpl b => bpl b | .brk => brk | .bvc b => bvc b | .bvs b => bvs b | .clc => clc | .cld => cld
  | .cli => cli | .clv => clv | .cmpAbs w => cmpAbs w | .cmpAbx w => cmpAbx w | .cmpAby w => cmpAby w
  | .cmpImm b => cmpImm b | .cmpIzx b => cmpIzx b | .cmpIzy b => cmpIzy b | .cmpZp b => cmpZp b
  | .cmpZpx b => cmpZpx b | .cpxAbs w => cpxAbs w | .cpxImm b => cpxImm b | .cpxZp b => cpxZp b
  | .cpyAbs w => cpyAbs w | .cpyImm b => cpyImm b | .cpyZp b => cpyZp b | .decAbs w => decAbs w
  | .decAbx w => decAbx w | .decZp b => decZp b | .decZpx b => decZpx b | .dex => dex | .dey => dey
  | .eorAbs w => eorAbs w | .eorAbx w => eorAbx w | .eorAby w => eorAby w | .eorImm b => eorImm b
  | .eorIzx b => eorIzx b | .eorIzy b => eorIzy b | .eorZp b => eorZp b | .eorZpx b => eorZpx b
  | .incAbs w => incAbs w | .incAbx w => incAbx w | .incZp b => incZp b | .incZpx b => incZpx b | .inx => inx
  | .iny => iny | .jmpAbs w => jmpAbs w | .jmpInd w => jmpInd w | .jsr w => jsr w | .ldaAbs w => ldaAbs w
  | .ldaAbx w => ldaAbx w | .ldaAby w => ldaAby w | .ldaImm b => ldaImm b | .ldaIzx b => ldaIzx b
  | .ldaIzy b => ldaIzy b | .ldaZp b => ldaZp b | .ldaZpx b => ldaZpx b | .ldxAbs w => ldxAbs w
  | .ldxAby w => ldxAby w | .ldxImm b => ldxImm b | .ldxZp b => ldxZp b | .ldxZpy b => ldxZpy b
  | .ldyAbs w => ldyAbs w | .ldyAbx w => ldyAbx w | .ldyImm b => ldyImm b | .ldyZp b => ldyZp b
  | .ldyZpx b => ldyZpx b | .lsrAcc => lsrAcc | .lsrAbs w => lsrAbs w | .lsrAbx w => lsrAbx w | .lsrZp b => lsrZp b
  | .lsrZpx b => lsrZpx b | .nop => nop | .oraAbs w => oraAbs w | .oraAbx w => oraAbx w | .oraAby w => oraAby w
  | .oraImm b => oraImm b | .oraIzx b => oraIzx b | .oraIzy b => oraIzy b | .oraZp b => oraZp b
  | .oraZpx b => oraZpx b | .pha => pha | .php => php | .pla => pla | .plp => plp | .rolAcc => rolAcc
  | .rolAbs w => rolAbs w | .rolAbx w => rolAbx w | .rolZp b => rolZp b | .rolZpx b => rolZpx b | .rorAcc => rorAcc
  | .rorAbs w => rorAbs w | .rorAbx w => rorAbx w | .rorZp b => rorZp b | .rorZpx b => rorZpx b | .rti => rti
  | .rts => rts | .sbcAbs w => sbcAbs w | .sbcAbx w => sbcAbx w | .sbcAby w => sbcAby w | .sbcImm b => sbcImm b
  | .sbcIzx b => sbcIzx b | .sbcIzy b => sbcIzy b | .sbcZp b => sbcZp b | .sbcZpx b => sbcZpx b | .sec => sec
  | .sed => sed | .sei => sei | .staAbs w => staAbs w | .staAbx w => staAbx w | .staAby w => staAby w
  | .staIzx b => staIzx b | .staIzy b => staIzy b | .staZp b => staZp b | .staZpx b => staZpx b
  | .stxAbs w => stxAbs w | .stxZp b => stxZp b | .stxZpy b => stxZpy b | .styAbs w => styAbs w
  | .styZp b => styZp b | .styZpx b => styZpx b | .tax => tax | .tay => tay | .tsx => tsx | .txa => txa
  | .txs => txs | .tya => tya

end Sys2Proof.Laws.Table

namespace Sys2Proof.Machine

open Sys2Proof.Claims

/-! ### What an instruction stores (R147, R183 to R185, R62, R241) -/

/-- Store bytes, each at its own address, one after another. -/
def Memory.writeAll : Memory → List (Word × Byte) → Memory
  | m, [] => m
  | m, (n, v) :: rest => Memory.writeAll (m.write n.toNat v) rest

/-- The addresses of a list of stores. -/
def storeAddresses (stores : List (Word × Byte)) : List Nat := stores.map fun e => e.1.toNat

theorem Memory.wf_writeAll {m : Memory} (stores : List (Word × Byte)) (hm : m.wf = true) :
    (m.writeAll stores).wf = true := by
  induction stores generalizing m with
  | nil => exact hm
  | cons e rest ih => exact ih (Memory.wf_write e.2 e.1.isLt hm)

theorem Memory.read_writeAll_of_not_mem {m : Memory} {stores : List (Word × Byte)} {n : Nat}
    (hn : n ∉ storeAddresses stores) : (m.writeAll stores).read n = m.read n := by
  induction stores generalizing m with
  | nil => rfl
  | cons e rest ih =>
    obtain ⟨hne, hrest⟩ : n ≠ e.1.toNat ∧ n ∉ storeAddresses rest := by simpa [storeAddresses] using hn
    exact (ih hrest).trans (Memory.read_write_other m _ n e.2 hne)

/-- From `s` to `t` memory changes by stores at exactly the addresses `ns`, in this order. -/
def StoresAre (s t : State) (ns : List Nat) : Prop :=
  ∃ stores, t.mem = s.mem.writeAll stores ∧ storeAddresses stores = ns

theorem storesAre_nil {s t : State} (h : t.mem = s.mem) : StoresAre s t [] := ⟨[], h, rfl⟩

/-- A register or an immediate byte has no effective address (R126, R134, R139). -/
theorem effAddr_eq_none_of_locOf {i : Instr} {s : State} {op : Loc} (h : locOf i s = some op)
    (hop : ∀ ea, op ≠ .mem ea) : effAddr i s = none := by
  unfold locOf at h
  split at h <;> cases h
  case h_1 hmode => simp only [effAddr, hmode]
  case h_2 hmode _ => simp only [effAddr, hmode]
  all_goals exact absurd rfl (hop _)

/-- Writing an operand stores at its effective address, if it has one (R124, R139). -/
theorem storesAre_locWrite {i : Instr} {s : State} {op : Loc} (v : Byte) (h : locOf i s = some op) :
    StoresAre s (op.write v s) (effAddr i s).toList := by
  cases op with
  | mem ea => rw [effAddr_of_locOf h]; exact ⟨[(ea, v)], rfl, rfl⟩
  | regA | imm => rw [effAddr_eq_none_of_locOf h nofun]; exact storesAre_nil rfl

/-- SP some places higher, wrapping (R24). -/
theorem add_ofNat_eq (sp : Byte) (k : Nat) : sp + BitVec.ofNat 8 k = BitVec.ofNat 8 (sp.toNat + k) := by
  rw [BitVec.ofNat_add, BitVec.ofNat_toNat, BitVec.setWidth_eq]

theorem stackAddr_eq_stackByte (sp : Byte) : (stackAddr sp).toNat = stackByte sp.toNat := by
  rw [stackAddr_toNat, stackByte, Nat.mod_eq_of_lt sp.isLt]

theorem stackAddr_sub_one (sp : Byte) : (stackAddr (sp - 1)).toNat = stackByte (sp.toNat + 255) := by
  rw [sub_one_eq, ← add_ofNat_eq, stackAddr_add]

theorem storesAre_push (s : State) (v : Byte) : StoresAre s (s.push v) [stackByte s.sp.toNat] :=
  ⟨[(stackAddr s.sp, v)], rfl, congrArg (· :: []) (stackAddr_eq_stackByte s.sp)⟩

theorem storesAre_call (t : Word) (s : State) :
    StoresAre s (call t s) [stackByte s.sp.toNat, stackByte (s.sp.toNat + 255)] := by
  refine ⟨[(stackAddr s.sp, hi8 (s.pc - 1)), (stackAddr (s.sp - 1), lo8 (s.pc - 1))], rfl, ?_⟩
  rw [storeAddresses, List.map_cons, List.map_singleton, stackAddr_eq_stackByte, stackAddr_sub_one]

/-- The one thing an instruction does to memory: the stores that `storedTo` lists. -/
theorem Shape.storesAre {i : Instr} {s t : State} (h : Shape i s t) : StoresAre s t (storedTo i s) := by
  unfold storedTo
  cases h with
  | asl _ hm ho | lsr _ hm ho | rol _ hm ho | ror _ hm ho | sta _ hm ho | stx _ hm ho | sty _ hm ho | inc _ hm ho
  | dec _ hm ho => rw [hm]; exact storesAre_locWrite _ ho
  | pha hm | php hm => rw [hm]; exact storesAre_push s _
  | jsr w hm => rw [hm]; exact storesAre_call w s
  | bcc _ hm | bcs _ hm | beq _ hm | bmi _ hm | bne _ hm | bpl _ hm | bvc _ hm | bvs _ hm =>
    rw [hm, branch_spec]; exact storesAre_nil rfl
  | pla hm => rw [hm, pullA_eq]; exact storesAre_nil rfl
  | adc _ hm | sbc _ hm | cmp _ hm | cpx _ hm | cpy _ hm | bit _ hm | and _ hm | ora _ hm | eor _ hm | lda _ hm
  | ldx _ hm | ldy _ hm | tax hm | tay hm | txa hm | tya hm | tsx hm | txs hm | inx hm | iny hm | dex hm | dey hm
  | clc hm | sec hm | cld hm | sed hm | cli hm | sei hm | clv hm | brk hm | plp hm | nop hm | jmp _ hm | rts hm
  | rti hm => rw [hm]; exact storesAre_nil rfl

/-- Settles O27: an instruction's stores, and a store leaves every other byte alone. -/
theorem onlyStoredBytesChange : Obligations.OnlyStoredBytesChange := by
  intro i s t h n hn
  obtain ⟨stores, hmem, haddr⟩ := (shape_of_exec h).storesAre
  rw [hmem]
  exact Memory.read_writeAll_of_not_mem (haddr ▸ hn)

/-! ### The invariant of a step (R51, R85, R260, R261) -/

/-- Everything a step that completes can be: the exception, or the instruction that was fetched (R122). -/
theorem step_cases {s t : State} (h : step s = .next t) : s.Ready ∧
    ((s.fetchInstr = none ∧ t = s.raiseUnsupportedOpcode) ∨
      ∃ i fetched, s.fetchInstr = some (i, fetched) ∧ exec i fetched = .next t) := by
  cases hr : s.everReset with
  | false => exact nomatch (step_of_not_everReset hr).symm.trans h
  | true =>
    cases hst : s.status with
    | faulted info => exact nomatch (step_of_faulted hr hst).symm.trans h
    | running =>
      refine ⟨⟨hr, hst⟩, ?_⟩
      simp only [step, hr, hst, if_true] at h
      split at h
      · exact .inl ⟨‹_›, (Host.Outcome.next.inj h).symm⟩
      · exact .inr ⟨_, _, ‹_›, h⟩

/-- The fetch unit changes no memory, no status and no parameter (R120, R148). -/
theorem fetchInstr_keeps {s fetched : State} {i : Instr} (h : s.fetchInstr = some (i, fetched)) :
    fetched.mem = s.mem ∧ fetched.status = s.status ∧ fetched.params = s.params := by
  rw [fetchInstr_frame h]
  exact ⟨rfl, rfl, rfl⟩

theorem exec_keeps_mem_wf {i : Instr} {s t : State} (h : exec i s = .next t) (hm : s.mem.wf = true) :
    t.mem.wf = true := by
  obtain ⟨stores, hmem, -⟩ := (shape_of_exec h).storesAre
  rw [hmem]
  exact Memory.wf_writeAll stores hm

theorem step_keeps_mem_wf {s t : State} (h : step s = .next t) (hm : s.mem.wf = true) : t.mem.wf = true := by
  obtain ⟨-, ⟨-, rfl⟩ | ⟨i, fetched, hf, he⟩⟩ := step_cases h
  · exact hm
  · obtain ⟨hmem, -, -⟩ := fetchInstr_keeps hf
    exact exec_keeps_mem_wf he (hmem ▸ hm)

theorem step_keeps_params {s t : State} (h : step s = .next t) : t.params = s.params := by
  obtain ⟨-, ⟨-, rfl⟩ | ⟨i, fetched, hf, he⟩⟩ := step_cases h
  · rfl
  · obtain ⟨-, -, hp⟩ := fetchInstr_keeps hf
    obtain ⟨-, -, hexec⟩ := (shape_of_exec he).keeps_status
    exact hexec.trans hp

theorem recordTrue_of_running {s : State} (h : s.status = .running) : s.recordTrue :=
  fun _ hf => nomatch h.symm.trans hf

/-- Where the fetch unit finds no instruction, what the exception records is true (R260, R261). -/
theorem raiseUnsupportedOpcode_recordTrue {s : State} (hp : s.params.wf = true) (hf : s.fetchInstr = none) :
    s.raiseUnsupportedOpcode.recordTrue := by
  intro info hinfo
  obtain rfl : _ = info := RunStatus.faulted.inj hinfo
  have hbyte : s.readMem s.pc ∉ s.params.opcodeMap :=
    (lookupRow_eq_none_iff hp _).mp ((fetchInstr_eq_none_iff s).mp hf)
  exact ⟨rfl, rfl, rfl, hbyte⟩

theorem step_keeps_recordTrue {s t : State} (h : step s = .next t) (hp : s.params.wf = true) : t.recordTrue := by
  obtain ⟨⟨-, hrun⟩, ⟨hf, rfl⟩ | ⟨i, fetched, hf, he⟩⟩ := step_cases h
  · exact raiseUnsupportedOpcode_recordTrue hp hf
  · obtain ⟨-, hst, -⟩ := fetchInstr_keeps hf
    obtain ⟨hexec, -, -⟩ := (shape_of_exec he).keeps_status
    exact recordTrue_of_running (hexec.trans (hst.trans hrun))

/-- Settles O20: each part of the invariant, over the two cases of `step_cases`. -/
theorem stepKeepsInvariant : Obligations.StepKeepsInvariant := by
  intro s t ⟨hm, hp, _⟩ h
  have hparams : t.params.wf = true := step_keeps_params h ▸ hp
  exact ⟨step_keeps_mem_wf h hm, hparams, step_keeps_recordTrue h hp⟩

/-! ### The host's ports (R43, R53, R60, R297) -/

@[simp] theorem writeReg_mem (s : State) (r : Reg8) (v : Byte) : (s.writeReg r v).mem = s.mem := by
  cases r <;> rfl

@[simp] theorem writeReg_params (s : State) (r : Reg8) (v : Byte) : (s.writeReg r v).params = s.params := by
  cases r <;> rfl

@[simp] theorem storeBytes_params (s : State) (n : Word) (bytes : List Byte) :
    (s.storeBytes n bytes).params = s.params := by
  induction bytes generalizing s n with
  | nil => rfl
  | cons b rest ih => exact ih (s.writeMem n b) (n + 1)

/-- Settles O22: one case per host move. -/
theorem hostMovesKeepCanonicalMemoryAndParams : Obligations.HostMovesKeepCanonicalMemoryAndParams := by
  intro m s t hm h
  cases m with
  | reset | writePc => cases h; exact ⟨hm, rfl⟩
  | step => exact ⟨step_keeps_mem_wf h hm, step_keeps_params h⟩
  | writeReg r v => cases h; exact ⟨(writeReg_mem s r v).symm ▸ hm, writeReg_params s r v⟩
  | writeMem n v => cases h; exact ⟨writeMem_wf n v hm, rfl⟩
  | load image => cases h; exact ⟨storeBytes_wf _ image hm, storeBytes_params s _ image⟩
  | entropy v => cases h; exact ⟨writeMem_wf _ v hm, rfl⟩

/-- Settles O17: the memory at power-on lists no byte, and reset keeps the memory it finds. -/
theorem powerOnMemoryIsZeroAndResetKeepsMemory : Obligations.PowerOnMemoryIsZeroAndResetKeepsMemory := by
  refine ⟨fun _ _ _ _ _ _ _ => Memory.read_nil, fun s t h n => ?_⟩
  obtain rfl : s.doReset = t := Host.Outcome.next.inj h
  rw [doReset_mem]

/-- Settles O18: the entropy source is one store at its cell. -/
theorem entropyWritesOnlyItsCell : Obligations.EntropyWritesOnlyItsCell :=
  fun s v => ⟨_, rfl, fun k => Memory.read_write s.mem Config.rngCell.toNat k v⟩

/-! ### The stack (R24, R62, R63) -/

/-- Pull (R63). -/
theorem pull_spec (s : State) : s.pull =
    (s.mem.read (stackByte (s.sp.toNat + 1)), { s with sp := BitVec.ofNat 8 (s.sp.toNat + 1) }) := by
  rw [← stackAddr_add, ← add_ofNat_eq]
  rfl

theorem push_pushesByte {i : Instr} {s : State} {v : Byte} (h : exec i s = .next (s.push v)) : PushesByte i s v := by
  obtain ⟨m', hpush, hstore⟩ := push_spec s v
  exact ⟨m', by rw [h, hpush, sub_one_eq], hstore⟩

/-- Settles O50: both are one push. -/
theorem pushesStoreThenMoveSpDown : Obligations.PushesStoreThenMoveSpDown :=
  fun _ => ⟨push_pushesByte rfl, push_pushesByte rfl⟩

/-- Settles O51: a pull, and PLA_SETS_NZ decides whether Z and N follow the byte. -/
theorem plaPullsA : Obligations.PlaPullsA := by
  intro s
  refine ⟨s.pull.1, if s.params.plaSetsNZ then setZN s.pull.1 s.sr else s.sr, ?_, ?_, fun f => ?_⟩
  · rw [pull_spec]
  · rw [← add_ofNat_eq]
    exact congrArg Host.Outcome.next (pullA_eq s)
  · cases s.params.plaSetsNZ with
    | true => exact znFlags _ s.sr f
    | false => rfl

/-- Settles O52: a pull whose byte is all of SR. -/
theorem plpPullsAllOfSr : Obligations.PlpPullsAllOfSr := by
  intro s
  change Host.Outcome.next (pullSr s) = _
  rw [pullSr, pull_spec]

/-! ### Two-byte operands (R55) -/

/-- The row of an instruction with a two-byte operand is of the three-byte format, and makes the instruction from its
operand's bytes (R81, R87). -/
theorem form_of_word_operand {i : Instr} {r : Row} {w : Word} (hfit : Laws.Table.RowFits i r)
    (hw : i.operand = .word w) : ∃ k, r.form = .f3 k ∧ k (cat16 (hi8 w) (lo8 w)) = i := by
  obtain ⟨-, -, hform⟩ := hfit
  have h := hform []
  rw [hw] at h
  cases hf : r.form with
  | f1 j => rw [hf] at h; cases h
  | f2 k => rw [hf] at h; cases h
  | f3 k =>
    rw [hf] at h
    exact ⟨k, rfl, congrArg Prod.fst (Option.some.inj h)⟩

/-- The fetch unit on a row of the three-byte format: high byte first, and PC three further (R55, R121). -/
theorem fetchInstr_of_f3 {s : State} {r : Row} {k : Word → Instr}
    (hrow : lookupRow s.params.opcodeMap (s.readMem s.pc) = some r) (hf : r.form = .f3 k) :
    s.fetchInstr = some (k (cat16 (s.readMem (s.pc + 1)) (s.readMem (s.pc + 2))), { s with pc := s.pc + 3 }) := by
  have h2 : s.pc + 1 + 1 = s.pc + 2 := BitVec.add_assoc s.pc 1 1
  have h3 : s.pc + 2 + 1 = s.pc + 3 := BitVec.add_assoc s.pc 2 1
  rw [readMem_eq] at hrow
  simp only [State.fetchInstr, State.fetchByte, readMem_eq, hrow, hf, h2, h3]

/-- Settles O4: the instruction's row is of the three-byte format, in the decoder and in the fetch unit. -/
theorem twoByteOperandsAreHighFirst : Obligations.TwoByteOperandsAreHighFirst := by
  intro m i w hm hw
  obtain ⟨opc, r, hopc, hrow, hfit⟩ := opcode_finds_row hm (Laws.Table.statement i)
  obtain ⟨k, hf, hk⟩ := form_of_word_operand hfit hw
  refine ⟨opc, hi8 w, lo8 w, ?_, ?_, ?_, fun s hs hwin => ?_⟩
  · rw [← cat16_toNat, Laws.Table.cat16_hi8_lo8]
  · rw [encodeWith, hopc, hw]; rfl
  · simp [decodeWith, hrow, hf, Form.assemble, hk]
  · obtain ⟨h0, h1, h2⟩ : s.readMem s.pc = opc ∧ s.readMem (s.pc + 1) = hi8 w ∧ s.readMem (s.pc + 2) = lo8 w := by
      simpa [window] using hwin
    rw [fetchInstr_of_f3 (by rw [hs, h0]; exact hrow) hf, h1, h2, hk]

end Sys2Proof.Machine
end

section
/-! PROOFS. The encoding family (30_encoding.md): the opcode table read backwards, the decoder and the encoder as inverses,
and what an encoded branch and a loaded image do to the state. -/

namespace Sys2Proof

/-! ### The rows of the table (R81, R84, R85) -/

/-- The instruction a form makes of an operand byte or word; it uses the one of the two that its format has (R81). -/
def Form.instr (b : Byte) (w : Word) : Form → Instr
  | .f1 i => i
  | .f2 k => k b
  | .f3 k => k w

/-- The operand of that instruction. -/
def Form.operand (b : Byte) (w : Word) : Form → Operand
  | .f1 _ => .none
  | .f2 _ => .byte b
  | .f3 _ => .word w

/-- A row makes instructions of its own pair, with the operand that its format takes (R81, R84). -/
theorem raw_instr_of_mem_rows {r : Row} (hr : r ∈ rows) (b : Byte) (w : Word) :
    (r.form.instr b w).raw = ⟨r.mnemonic, r.mode, r.form.operand b w⟩ :=
  have hall : rows.map (fun r => (r.form.instr b w).raw) =
      rows.map fun r => ⟨r.mnemonic, r.mode, r.form.operand b w⟩ := rfl
  List.map_inj_left.mp hall r hr

/-- No pair stands in two rows: searching the table for a row's pair finds its place (R85). -/
theorem findIdx_pair_eq_of_getElem? {k : Nat} {r : Row} (hr : rows[k]? = some r) :
    rows.findIdx (fun e => e.mnemonic == r.mnemonic && e.mode == r.mode) = k := by
  have hall : ∀ p ∈ rows.zipIdx,
      rows.findIdx (fun e => e.mnemonic == p.1.mnemonic && e.mode == p.1.mode) = p.2 := by decide +kernel
  exact hall (r, k) (List.mem_zipIdx_iff_getElem?.mpr hr)

/-- The modes of a mnemonic in rule R84 are those of its rows. -/
theorem modes_eq_rows (mn : Mnemonic) : mn.modes = (rows.filter (·.mnemonic == mn)).map (·.mode) := by
  cases mn <;> rfl

/-- The legal pairs are the pairs of the rows (R84, R86). -/
theorem legalPair_iff_mem_rows (mn : Mnemonic) (md : Mode) :
    legalPair mn md = true ↔ ∃ r ∈ rows, r.mnemonic = mn ∧ r.mode = md := by
  simp [legalPair, modes_eq_rows, and_assoc]

/-! ### A byte and its pair, under an injective map (R85, R86, R123) -/

/-- The row a byte finds is a row of the table. -/
theorem mem_rows_of_lookupRow {m : OpcodeMap} {opc : Byte} {r : Row} (h : lookupRow m opc = some r) : r ∈ rows := by
  obtain ⟨k, -, hr⟩ := getElem?_of_lookup_zip h
  exact List.mem_of_getElem? hr

/-- A row's pair is given the byte that finds the row. -/
theorem opcodeOf_of_lookupRow {m : OpcodeMap} {opc : Byte} {r : Row} (h : lookupRow m opc = some r) :
    opcodeOf m r.mnemonic r.mode = some opc := by
  obtain ⟨k, hopc, hr⟩ := getElem?_of_lookup_zip h
  rw [opcodeOf, find?_zip_of_findIdx (findIdx_pair_eq_of_getElem? hr) hopc hr]
  rfl

/-- Every row is found by a byte of the map (R85). -/
theorem exists_lookupRow_of_mem_rows {m : OpcodeMap} (hm : OpcodeMap.wf m = true) {r : Row} (hr : r ∈ rows) :
    ∃ opc, lookupRow m opc = some r := by
  obtain ⟨hlen, hnodup⟩ := (OpcodeMap.wf_iff m).mp hm
  obtain ⟨k, hk⟩ := List.mem_iff_getElem?.mp hr
  have hlt : k < m.length := by
    rw [hlen, ← rows_length]
    exact (List.getElem?_eq_some_iff.mp hk).1
  exact ⟨m[k], lookup_zip_of_getElem? hnodup (List.getElem?_eq_getElem hlt) hk⟩

theorem decodeOpcode_eq_some_iff {m : OpcodeMap} {opc : Byte} {mn : Mnemonic} {md : Mode} :
    decodeOpcode m opc = some (mn, md) ↔ ∃ r, lookupRow m opc = some r ∧ r.mnemonic = mn ∧ r.mode = md := by
  simp [decodeOpcode]

/-! ### The decoder and the encoder (R80, R87, R96) -/

theorem hi8_cat16 (hi lo : Byte) : hi8 (cat16 hi lo) = hi := by
  have := lo.isLt
  apply BitVec.eq_of_toNat_eq
  rw [hi8_toNat, cat16_toNat]
  omega

theorem lo8_cat16 (hi lo : Byte) : lo8 (cat16 hi lo) = lo := by
  have := lo.isLt
  apply BitVec.eq_of_toNat_eq
  rw [lo8_toNat, cat16_toNat]
  omega

/-- The bytes a form takes are the bytes of the operand it makes of them (R55, R81). -/
theorem Form.assemble_eq_some {f : Form} {ops rest : List Byte} {i : Instr} (h : f.assemble ops = some (i, rest)) :
    ∃ b w, i = f.instr b w ∧ ops = (f.operand b w).bytes ++ rest := by
  match f, ops, h with
  | .f1 _, _, rfl => exact ⟨0, 0, rfl, rfl⟩
  | .f2 _, b :: _, rfl => exact ⟨b, 0, rfl, rfl⟩
  | .f3 _, hi :: lo :: _, rfl =>
    exact ⟨0, cat16 hi lo, rfl, by rw [Form.operand, Operand.bytes, hi8_cat16, lo8_cat16]; rfl⟩

/-- What the decoder accepts: an opcode byte that finds a row, then bytes that the row's form takes (R88, R123). -/
theorem decodeWith_eq_ok_iff {m : OpcodeMap} {bytes : List Byte} {d : Instr × List Byte} :
    decodeWith m bytes = .ok d ↔
      ∃ opc ops r, bytes = opc :: ops ∧ lookupRow m opc = some r ∧ r.form.assemble ops = some d := by
  constructor
  · intro h
    cases bytes with
    | nil => cases h
    | cons opc ops =>
      rw [decodeWith] at h
      cases hrow : lookupRow m opc with
      | none => rw [hrow] at h; cases h
      | some r =>
        rw [hrow] at h
        cases hd : r.form.assemble ops with
        | none => simp only [hd] at h; cases h
        | some d' => simp only [hd] at h; cases h; exact ⟨opc, ops, r, rfl, hrow, hd⟩
  · rintro ⟨opc, ops, r, rfl, hrow, hd⟩
    simp only [decodeWith, hrow, hd]

/-- When the decoder names an opcode byte unsupported: exactly where the byte finds no row (R89). -/
theorem decodeWith_eq_unsupportedOpcode_iff {m : OpcodeMap} {opc : Byte} {rest : List Byte} :
    decodeWith m (opc :: rest) = .error (.unsupportedOpcode opc) ↔ lookupRow m opc = none := by
  rw [decodeWith]
  cases lookupRow m opc with
  | none => exact iff_of_true rfl rfl
  | some r => cases hd : r.form.assemble rest <;> simp [hd]

/-- Settles O1: the instruction's opcode byte finds its row, and the row's form takes its operand bytes. -/
theorem decodeOfEncodeGivesInstrBack : Obligations.DecodeOfEncodeGivesInstrBack := by
  intro m i rest hm
  obtain ⟨opc, r, hopc, hrow, -, -, hform⟩ := opcode_finds_row hm (Laws.Table.statement i)
  rw [encodeWith, hopc]
  exact decodeWith_eq_ok_iff.mpr ⟨opc, i.operand.bytes ++ rest, r, rfl, hrow, hform rest⟩

/-- Settles O2: the row that the opcode byte finds fixes the pair, and its form the operand bytes. -/
theorem decodedBytesAreTheEncoding : Obligations.DecodedBytesAreTheEncoding := by
  intro m i bytes rest _ h
  obtain ⟨opc, ops, r, rfl, hrow, hform⟩ := decodeWith_eq_ok_iff.mp h
  obtain ⟨b, w, rfl, rfl⟩ := Form.assemble_eq_some hform
  obtain ⟨hmn, hmd, hop⟩ := RawInstr.mk.inj (raw_instr_of_mem_rows (mem_rows_of_lookupRow hrow) b w)
  rw [encodeWith, hmn, hmd, hop, opcodeOf_of_lookupRow hrow]
  rfl

/-- An instruction's operand has as many bytes as its mode says (R83). -/
theorem Instr.operand_bytes_length (i : Instr) : i.operand.bytes.length = i.mode.operandLength := by
  cases i <;> rfl

theorem encodeWith_length {m : OpcodeMap} (hm : OpcodeMap.wf m = true) (i : Instr) :
    (encodeWith m i).length = 1 + i.mode.operandLength := by
  obtain ⟨opc, r, hopc, -, -⟩ := opcode_finds_row hm (Laws.Table.statement i)
  rw [encodeWith, hopc, ← i.operand_bytes_length, Nat.add_comm]
  rfl

/-- Settles O3: R83's table mode by mode, the length of an encoding, and O2 for the decoder. -/
theorem operandLengthFollowsMode : Obligations.OperandLengthFollowsMode := by
  refine ⟨fun md => by cases md <;> rfl, fun m i hm => ⟨encodeWith_length hm i, fun bytes rest h => ?_⟩⟩
  rw [decodedBytesAreTheEncoding m i bytes rest hm h, List.length_append, encodeWith_length hm i]

/-- The bytes of the default map (R86, D2). -/
theorem OpcodeMap.mem_standard_iff (b : Byte) : b ∈ OpcodeMap.standard ↔ 1 ≤ b.toNat ∧ b.toNat ≤ 151 := by
  simp only [OpcodeMap.standard, List.mem_map, List.mem_range]
  constructor
  · rintro ⟨k, hk, rfl⟩
    rw [BitVec.toNat_ofNat]
    omega
  · rintro ⟨h1, h151⟩
    exact ⟨b.toNat - 1, by omega, by rw [Nat.sub_add_cancel h1, BitVec.ofNat_toNat, BitVec.setWidth_eq]⟩

/-- Settles O5: outside the map a byte finds no row; the default map is 0x01 to 0x97. -/
theorem unassignedOpcodeBytesAreRejected : Obligations.UnassignedOpcodeBytesAreRejected := by
  refine ⟨fun m b rest hm => ?_, fun b => ?_⟩
  · rw [decodeWith_eq_unsupportedOpcode_iff, lookupRow_eq_none_iff hm]
  · rw [OpcodeMap.mem_standard_iff]
    omega

/-- Settles O6: the pairs of the rows are the legal ones, and the byte that finds a row is its pair's opcode byte. -/
theorem decoderCoversExactlyTheLegalPairs : Obligations.DecoderCoversExactlyTheLegalPairs := by
  refine fun m hm => ⟨fun b ⟨mn, md⟩ hb => ?_, fun mn md hlegal => ?_⟩
  · obtain ⟨r, hrow, rfl, rfl⟩ := decodeOpcode_eq_some_iff.mp hb
    have hmem : b ∈ m := by
      by_contra hb
      exact nomatch hrow.symm.trans ((lookupRow_eq_none_iff hm b).mpr hb)
    exact ⟨(legalPair_iff_mem_rows _ _).mpr ⟨r, mem_rows_of_lookupRow hrow, rfl, rfl⟩, hmem⟩
  · obtain ⟨r, hr, rfl, rfl⟩ := (legalPair_iff_mem_rows mn md).mp hlegal
    obtain ⟨opc, hrow⟩ := exists_lookupRow_of_mem_rows hm hr
    refine ⟨opc, decodeOpcode_eq_some_iff.mpr ⟨r, hrow, rfl, rfl⟩, fun b' hb' => ?_⟩
    obtain ⟨r', hrow', hmn, hmd⟩ := decodeOpcode_eq_some_iff.mp hb'
    have hopc' := opcodeOf_of_lookupRow hrow'
    rw [hmn, hmd, opcodeOf_of_lookupRow hrow] at hopc'
    exact (Option.some.inj hopc').symm

/-- Settles O7: ten runs of the decoder. -/
theorem opcodeTableWordsDecode : Obligations.OpcodeTableWordsDecode :=
  ⟨rfl, rfl, rfl, rfl, rfl, rfl, rfl, rfl, rfl, rfl⟩

/-! ### Branch displacements (R96, R138, D21) -/

/-- Truncating a word in the range of a signed byte and extending its sign gives the word back (R11). -/
theorem sext16_ofInt_toInt {w : Word} (hlo : -128 ≤ w.toInt) (hhi : w.toInt ≤ 127) :
    sext16 (BitVec.ofInt 8 w.toInt) = w := by
  have hbyte : (BitVec.ofInt 8 w.toInt).toInt = w.toInt := by
    rw [BitVec.toInt_ofInt]
    exact Int.bmod_eq_of_le (by omega) (by omega)
  rw [sext16, BitVec.signExtend, hbyte, BitVec.ofInt_toInt]

/-- The displacement byte stands for the distance from the next instruction to the target (R96, R138). -/
theorem sext16_branchDisplacement {addr target : Word} {d : Byte} (h : branchDisplacement addr target = some d) :
    sext16 d = target - (addr + 2) := by
  simp only [branchDisplacement, Option.ite_none_right_eq_some, Option.some.injEq] at h
  obtain ⟨⟨hlo, hhi⟩, rfl⟩ := h
  exact sext16_ofInt_toInt hlo hhi

namespace Machine

/-- Settles O8: a taken branch adds the displacement to the address of the next instruction. -/
theorem branchDisplacementReachesItsLabel : Obligations.BranchDisplacementReachesItsLabel := by
  intro addr target d s hd hpc hc
  have htarget : targetRel d s = target := by
    rw [targetRel, hpc, sext16_branchDisplacement hd, BitVec.add_comm, BitVec.sub_add_cancel]
  change Host.Outcome.next (branch .c false d s) = _
  rw [branch, if_pos hc, htarget]

/-! ### The loader (R80, R98, R293) -/

theorem storeBytes_eq (s : State) (n : Word) (bytes : List Byte) :
    s.storeBytes n bytes = { s with mem := (s.storeBytes n bytes).mem } := by
  induction bytes generalizing s n with
  | nil => rfl
  | cons b rest ih => exact ih (s.writeMem n b) (n + 1)

/-- The place after an address, then `k` places on, is `k + 1` places on from the address (R80). -/
theorem toNat_add_one_offset (n : Word) (k : Nat) : ((n + 1).toNat + k) % 65536 = (n.toNat + (k + 1)) % 65536 := by
  rw [BitVec.toNat_add, show (1 : Word).toNat = 1 from rfl]
  omega

/-- Storing a byte sequence changes no byte outside the places it is stored to (R50, R80). -/
theorem read_storeBytes_of_outside {s : State} {n : Word} {bytes : List Byte} {j : Nat}
    (hj : ∀ k, k < bytes.length → j ≠ (n.toNat + k) % 65536) : (s.storeBytes n bytes).mem.read j = s.mem.read j := by
  induction bytes generalizing s n with
  | nil => rfl
  | cons b rest ih =>
    have hhead : j ≠ n.toNat := by
      have h0 := hj 0 (Nat.zero_lt_succ _)
      rwa [Nat.add_zero, Nat.mod_eq_of_lt n.isLt] at h0
    have htail : ∀ k, k < rest.length → j ≠ ((n + 1).toNat + k) % 65536 := fun k hk =>
      toNat_add_one_offset n k ▸ hj (k + 1) (Nat.succ_lt_succ hk)
    exact (ih htail).trans (Memory.read_write_other s.mem _ j b hhead)

/-- Storing a byte sequence no longer than memory puts each byte at its own place (R50, R80). -/
theorem read_storeBytes_of_lt {s : State} {n : Word} {bytes : List Byte} (hlen : bytes.length ≤ 65536) {k : Nat}
    (hk : k < bytes.length) : (s.storeBytes n bytes).mem.read ((n.toNat + k) % 65536) = bytes[k] := by
  induction bytes generalizing s n k with
  | nil => cases hk
  | cons b rest ih =>
    rw [List.length_cons] at hlen hk
    have hn : n.toNat < 65536 := n.isLt
    cases k with
    | zero =>
      have houtside : ∀ k, k < rest.length → n.toNat ≠ ((n + 1).toNat + k) % 65536 := fun k hk => by
        rw [toNat_add_one_offset]
        omega
      rw [Nat.add_zero, Nat.mod_eq_of_lt hn]
      exact (read_storeBytes_of_outside houtside).trans (Memory.read_write_same s.mem n.toNat b)
    | succ k =>
      rw [← toNat_add_one_offset]
      exact ih (by omega) (by omega)

/-- Settles O19: the load move stores the image's bytes one after another from LOAD_ORIGIN on. -/
theorem loaderCopiesImageAtOrigin : Obligations.LoaderCopiesImageAtOrigin := fun s image hlen =>
  ⟨(s.loadImage image).mem, congrArg Host.Outcome.next (storeBytes_eq s _ image),
    fun _ hk => read_storeBytes_of_lt hlen hk, fun _ hn => read_storeBytes_of_outside hn⟩

end Machine

end Sys2Proof
end

section
/-! PROOFS. The fetch, decode and addressing family (40_fetch_decode_addressing.md): the fetch unit beside the decoder, the
ALU, the indexed addresses, increment and decrement, and the branches. -/

namespace Sys2Proof.Machine

open Sys2Proof.Claims

/-! ### The fetch unit beside the decoder (R120 to R123) -/

/-- FetchByte calls move PC and change nothing else (R120). -/
theorem fetchBytes_state (k : Nat) (s : State) : (fetchBytes k s).2 = { s with pc := s.pc + BitVec.ofNat 16 k } := by
  induction k generalizing s with
  | zero => simp [fetchBytes]
  | succ k ih =>
    have hpc : s.pc + BitVec.ofNat 16 (k + 1) = s.pc + 1 + BitVec.ofNat 16 k := by
      rw [Nat.add_comm, BitVec.ofNat_add, BitVec.add_assoc]
      rfl
    rw [hpc]
    exact ih s.fetchByte.2

/-- The instruction of a row is one byte longer than the operand that the row's form takes (R83). -/
theorem length_instr_of_mem_rows {r : Row} (hr : r ∈ rows) (b : Byte) (w : Word) :
    (r.form.instr b w).length = (r.form.operand b w).bytes.length + 1 := by
  obtain ⟨-, -, hop⟩ := RawInstr.mk.inj (raw_instr_of_mem_rows hr b w)
  rw [Instr.length, ← Instr.operand_bytes_length, hop, Nat.add_comm]

/-- Where the opcode byte finds a row, the fetch unit reads as many bytes as the instruction is long, they decode to it, and
so does the window of three bytes that begins with them (R87, R120, R121). -/
theorem fetchInstr_of_lookupRow {s : State} {r : Row}
    (hrow : lookupRow s.params.opcodeMap (s.mem.read s.pc.toNat) = some r) : ∃ i rest,
    s.fetchInstr = some (i, (fetchBytes i.length s).2) ∧
    decodeWith s.params.opcodeMap (fetchBytes i.length s).1 = .ok (i, []) ∧
    decodeWith s.params.opcodeMap (window s) = .ok (i, rest) := by
  have hlen := length_instr_of_mem_rows (mem_rows_of_lookupRow hrow)
  cases hf : r.form with
  | f1 i =>
    rw [hf] at hlen
    have hi : i.length = 1 := hlen 0 0
    refine ⟨i, [s.readMem (s.pc + 1), s.readMem (s.pc + 2)], ?_⟩
    simp [hi, State.fetchInstr, fetchBytes, hrow, hf, decodeWith, window, Form.assemble]
  | f2 k =>
    rw [hf] at hlen
    have hk : ∀ b, (k b).length = 2 := fun b => hlen b 0
    refine ⟨k (s.readMem (s.pc + 1)), [s.readMem (s.pc + 2)], ?_⟩
    simp [hk, State.fetchInstr, fetchBytes, hrow, hf, decodeWith, window, Form.assemble]
  | f3 k =>
    rw [hf] at hlen
    have hk : ∀ w, (k w).length = 3 := fun w => hlen 0 w
    refine ⟨k (cat16 (s.readMem (s.pc + 1)) (s.readMem (s.pc + 1 + 1))), [], ?_⟩
    simp [hk, State.fetchInstr, fetchBytes, hrow, hf, decodeWith, window, Form.assemble]

/-- Settles O9: `State.fetchByte` as written, and the fetch unit beside the decoder on the row of the opcode byte. -/
theorem fetchByteReadsAtPcAndAdvances : Obligations.FetchByteReadsAtPcAndAdvances := by
  refine ⟨fun s => ?_, fun s t i h => ?_⟩
  · have hpc : s.pc + 1 = BitVec.ofNat 16 ((s.pc.toNat + 1) % 65536) := by
      apply BitVec.eq_of_toNat_eq
      simp [BitVec.toNat_add]
    rw [← hpc]
    rfl
  · cases hrow : lookupRow s.params.opcodeMap (s.mem.read s.pc.toNat) with
    | none => exact nomatch ((fetchInstr_eq_none_iff s).mpr hrow).symm.trans h
    | some r =>
      obtain ⟨i', -, hfetch, hdec, -⟩ := fetchInstr_of_lookupRow hrow
      rw [hfetch] at h
      cases h
      exact ⟨rfl, hdec⟩

/-- A step from a ready state runs what the fetch unit answers (R122). -/
theorem step_of_fetchInstr {s fetched : State} {i : Instr} (hs : s.Ready) (h : s.fetchInstr = some (i, fetched)) :
    step s = exec i fetched := by
  obtain ⟨hr, hst⟩ := hs
  simp [step, hr, hst, h]

/-- Settles O10: the opcode byte of a window that decodes finds a row, and the fetch unit reads that row's instruction. -/
theorem stepRunsDecodedInstruction : Obligations.StepRunsDecodedInstruction := by
  intro s i rest hs h
  obtain ⟨opc, ops, r, hwin, hrow, -⟩ := decodeWith_eq_ok_iff.mp h
  obtain ⟨rfl, -⟩ := List.cons.inj hwin
  obtain ⟨i', rest', hfetch, -, hdec⟩ := fetchInstr_of_lookupRow hrow
  rw [h] at hdec
  cases hdec
  rw [step_of_fetchInstr hs hfetch, fetchBytes_state, BitVec.ofNat_add, BitVec.ofNat_toNat, BitVec.setWidth_eq]

/-! ### The ALU (R140, R141, R143) -/

/-- Settles O29: the flags after `setZN`, one by one. -/
theorem setZNWritesZeroAndNegativeOnly : Obligations.SetZNWritesZeroAndNegativeOnly := fun v sr f => znFlags v sr f

/-- The adder's overflow bit in the terms of the claims (R141). -/
theorem add8_v_eq_sameSign (a m : Byte) (cin : Bool) :
    (add8 a m cin).v = (sameSign a m && !sameSign a (add8 a m cin).r) := by
  rw [add8_v, sameSign_eq, sameSign_eq]
  rfl

/-- Settles O30: the carry is as `add8` has it, the overflow and the result are `add8_v_eq_sameSign` and `add8_toNat`. -/
theorem add8GivesSumCarryOverflow : Obligations.Add8GivesSumCarryOverflow := fun a m cin =>
  ⟨(add8 a m cin).r, congrArg (Sum.mk _ _) (add8_v_eq_sameSign a m cin), add8_toNat a m cin⟩

/-- Settles O31: overflow in terms of the three sign bits, and the operands' values by sign. -/
theorem add8OverflowIsSignedOverflow : Obligations.Add8OverflowIsSignedOverflow := by
  intro a m cin
  have ha := a.isLt
  have hm := m.isLt
  have hr := add8_toNat a m cin
  have hc : cin.toNat ≤ 1 := Bool.toNat_le cin
  have hsign : (add8 a m cin).v = true ↔ (128 ≤ a.toNat ↔ 128 ≤ m.toNat) ∧
      ¬(128 ≤ a.toNat ↔ 128 ≤ (add8 a m cin).r.toNat) := by simp [add8_v_eq_sameSign, sameSign]
  rw [BitVec.toInt_eq_toNat_cond, BitVec.toInt_eq_toNat_cond, Bool.eq_iff_iff, hsign, decide_eq_true_iff]
  split <;> split <;> omega

/-- Settles O36: the flags after `cmp8`, with the wrapped difference as a number. -/
theorem cmp8WritesCarryZeroNegative : Obligations.Cmp8WritesCarryZeroNegative := by
  intro r m sr f
  have hdiff : (r - m).toNat = (r.toNat + 256 - m.toNat) % 256 := by
    have := m.isLt
    rw [BitVec.toNat_sub]
    omega
  rw [getFlag_cmp8, bit7_eq_decide, hdiff]
  cases f <;> rfl

/-! ### The addressing modes (R128 to R133) -/

/-- No mnemonic but LDX and STX takes ZeroPage,Y (R84). -/
theorem mnemonic_of_mode_zpy {i : Instr} (h : i.mode = .zpy) : i.mnemonic = .ldx ∨ i.mnemonic = .stx := by
  cases i with
  | ldxZpy => exact .inl rfl
  | stxZpy => exact .inr rfl
  | _ => cases h

/-- Settles O32: each location's address as a number. -/
theorem indexedAddressesWrap : Obligations.IndexedAddressesWrap := fun b w s =>
  ⟨⟨rfl, _, rfl, zext16_toNat b⟩, ⟨rfl, _, rfl, zext16_add_toNat b s.x⟩,
    ⟨rfl, ⟨_, rfl, zext16_add_toNat b s.y⟩, fun _ => mnemonic_of_mode_zpy⟩,
    ⟨rfl, _, rfl, add_zext16_toNat w s.x⟩, ⟨rfl, _, rfl, add_zext16_toNat w s.y⟩⟩

/-! ### Increment and decrement (R145) -/

theorem inc8_eq_ofNat (v : Byte) : inc8 v = BitVec.ofNat 8 ((v.toNat + 1) % 256) := by
  rw [← inc8_toNat, BitVec.ofNat_toNat, BitVec.setWidth_eq]

theorem dec8_eq_ofNat (v : Byte) : dec8 v = BitVec.ofNat 8 ((v.toNat + 255) % 256) := by
  rw [← dec8_toNat, BitVec.ofNat_toNat, BitVec.setWidth_eq]

/-- A write-back to a memory operand, by its effects: no instruction of Accumulator mode has such an operand (R147). -/
theorem writesBack_of_mem {i : Instr} {s : State} {ea : Word} {m' : Memory} {r sr' : Byte} {new : Flag → Option Bool}
    (hloc : locOf i s = some (.mem ea)) (hexec : exec i s = .next { s with mem := m', sr := sr' })
    (hstore : StoresByte s.mem m' ea.toNat r) (hflags : FlagsAre s.sr sr' new) : WritesBack i s r new := by
  have hea := effAddr_of_locOf hloc
  refine ⟨fun hacc => ?_, fun _ => ⟨ea.toNat, m', sr', hea, hexec, hstore, hflags⟩⟩
  rw [effAddr, hacc] at hea
  cases hea

/-- A read-modify-write of a memory byte by `f` reads the operand and writes `f` of it back (R147, R200, R201). -/
theorem writesBack_of_modifyWith {i : Instr} {s : State} {ea : Word} {f : Byte → Byte}
    (hloc : locOf i s = some (.mem ea)) (hexec : exec i s = .next (modifyWith f (.mem ea) s)) :
    ∃ v, sourceByte i s = some v ∧ WritesBack i s (f v) (znOf (f v)) := by
  obtain ⟨m', sr', hmod, hstore, hflags⟩ := modifyWith_mem f ea s
  exact ⟨_, sourceByte_of_locOf hloc, writesBack_of_mem hloc (hexec.trans (congrArg _ hmod)) hstore hflags⟩

/-- Settles O45: every form of both is a read-modify-write of a memory byte. -/
theorem incDecMemoryWraps : Obligations.IncDecMemoryWraps := by
  refine fun i s => ⟨fun hi => ?_, fun hi => ?_⟩
  · obtain ⟨ea, hloc, hexec⟩ := exec_inc s hi
    simpa only [inc8_eq_ofNat] using writesBack_of_modifyWith hloc hexec
  · obtain ⟨ea, hloc, hexec⟩ := exec_dec s hi
    simpa only [dec8_eq_ofNat] using writesBack_of_modifyWith hloc hexec

/-- Settles O46: all four are a load of X or Y with its own byte, plus or minus one. -/
theorem incDecIndexWraps : Obligations.IncDecIndexWraps := fun s =>
  have ⟨p, hinx, hp⟩ := loadX_spec (inc8 s.x) s
  have ⟨q, hiny, hq⟩ := loadY_spec (inc8 s.y) s
  have ⟨u, hdex, hu⟩ := loadX_spec (dec8 s.x) s
  have ⟨v, hdey, hv⟩ := loadY_spec (dec8 s.y) s
  ⟨inc8 s.x, inc8 s.y, dec8 s.x, dec8 s.y, p, q, u, v, inc8_toNat s.x, inc8_toNat s.y, dec8_toNat s.x, dec8_toNat s.y,
    congrArg _ hinx, hp, congrArg _ hiny, hq, congrArg _ hdex, hu, congrArg _ hdey, hv⟩

/-! ### The branches (R138, R245 to R252) -/

/-- The Relative target of the machine is that of rule R139's table. -/
theorem targetOf_of_rel {i : Instr} {d : Byte} (s : State) (hmode : i.mode = .rel) (hop : i.operand = .byte d) :
    targetOf i s = some (targetRel d s).toNat := by
  rw [targetOf, hmode, hop, targetRel_toNat]

/-- An instruction that does what `branch` does branches on that flag (R138). -/
theorem branchesOn_of_branch {i : Instr} {s : State} {f : Flag} {on : Bool} {d : Byte} (hmode : i.mode = .rel)
    (hop : i.operand = .byte d) (hexec : exec i s = .next (branch f on d s)) : BranchesOn i s f on := by
  refine ⟨_, targetOf_of_rel s hmode hop, ?_⟩
  rw [hexec, branch_spec, BitVec.ofNat_toNat, BitVec.setWidth_eq]

/-- Settles O60: each of the eight is `branch` on its own flag and value. -/
theorem branchesTestOneFlag : Obligations.BranchesTestOneFlag := by
  refine fun s d => ⟨?_, ?_, ?_, ?_, ?_, ?_, ?_, ?_⟩ <;> exact branchesOn_of_branch rfl rfl rfl

end Sys2Proof.Machine
end

section
/-! PROOFS. The arithmetic and compare family (41_arith_compare.md): ADC and SBC through the adder, and the three compares
through one lemma. -/

namespace Sys2Proof.Machine

open Sys2Proof.Claims

/-! ### ADC and SBC (R150 to R152) -/

/-- Settles O33: every form of ADC is `adc` at the location its mode names, and `adc_spec` gives the next state. -/
theorem adcAddsWithCarry : Obligations.AdcAddsWithCarry := by
  intro i s hi
  obtain ⟨op, hloc, hexec⟩ := exec_adc s hi
  obtain ⟨r, sr', hr, hadc, hflags⟩ := adc_spec op s
  exact ⟨op.read s, r, sr', sourceByte_of_locOf hloc, hr, hexec.trans (congrArg _ hadc), hflags⟩

/-- Settles O34: every form of SBC is `sbc` at the location its mode names, and `sbc_spec` gives the next state. -/
theorem sbcSubtractsWithBorrow : Obligations.SbcSubtractsWithBorrow := by
  intro i s hi
  obtain ⟨op, hloc, hexec⟩ := exec_sbc s hi
  obtain ⟨r, sr', hr, hsbc, hflags⟩ := sbc_spec op s
  exact ⟨op.read s, r, sr', sourceByte_of_locOf hloc, hr, hexec.trans (congrArg _ hsbc), hflags⟩

/-! ### CMP, CPX and CPY (R143, R153 to R155) -/

/-- An instruction that does what `compare` does sets C, Z and N from the register minus its operand byte (R143). -/
theorem setsFlags_of_compare {i : Instr} {s : State} {reg : Byte}
    (h : ∃ op, locOf i s = some op ∧ exec i s = .next (compare reg op s)) :
    ∃ m : Byte, sourceByte i s = some m ∧
      SetsFlags i s (cznOf (decide (m.toNat ≤ reg.toNat)) (BitVec.ofNat 8 (reg.toNat + 256 - m.toNat))) := by
  obtain ⟨op, hloc, hexec⟩ := h
  obtain ⟨sr', hcompare, hflags⟩ := compare_spec reg op s
  exact ⟨op.read s, sourceByte_of_locOf hloc, sr', hexec.trans (congrArg _ hcompare), hflags⟩

/-- Settles O35: every form of CMP is a compare of A. -/
theorem cmpComparesWithA : Obligations.CmpComparesWithA := fun _ s hi => setsFlags_of_compare (exec_cmp s hi)

/-- Settles O37: every form of CPX is a compare of X, and every form of CPY one of Y. -/
theorem cpxCpyCompareIndexRegisters : Obligations.CpxCpyCompareIndexRegisters := fun _ s =>
  ⟨fun hi => setsFlags_of_compare (exec_cpx s hi), fun hi => setsFlags_of_compare (exec_cpy s hi)⟩

end Sys2Proof.Machine
end

section
/-! PROOFS. The shift and rotate family (42_shift_rotate.md): the shifter over numbers, and all four mnemonics
through one lemma about a read-modify-write by the shifter. -/

namespace Sys2Proof.Machine

open Sys2Proof.Claims

/-! ### The shifter over numbers (R144) -/

theorem asl8_eq (v : Byte) : asl8 v = ⟨BitVec.ofNat 8 (v.toNat * 2), decide (128 ≤ v.toNat)⟩ :=
  congrArg₂ Shifted.mk (BitVec.eq_of_toNat_eq ((asl8_toNat v).trans (BitVec.toNat_ofNat _ 8).symm)) (getLsbD_seven v)

theorem lsr8_eq (v : Byte) : lsr8 v = ⟨BitVec.ofNat 8 (v.toNat / 2), decide (v.toNat % 2 = 1)⟩ := by
  rw [← lsr8_toNat, BitVec.ofNat_toNat, BitVec.setWidth_eq, ← getLsbD_zero_eq]
  rfl

theorem rol8_eq (v : Byte) (c : Bool) :
    rol8 v c = ⟨BitVec.ofNat 8 (v.toNat * 2 + c.toNat), decide (128 ≤ v.toNat)⟩ :=
  congrArg₂ Shifted.mk (BitVec.eq_of_toNat_eq ((rol8_toNat v c).trans (BitVec.toNat_ofNat _ 8).symm)) (getLsbD_seven v)

theorem ror8_eq (v : Byte) (c : Bool) :
    ror8 v c = ⟨BitVec.ofNat 8 (v.toNat / 2 + c.toNat * 128), decide (v.toNat % 2 = 1)⟩ := by
  rw [← ror8_toNat, BitVec.ofNat_toNat, BitVec.setWidth_eq, ← getLsbD_zero_eq]
  rfl

/-! ### ASL, LSR, ROL and ROR (R147, R170 to R173) -/

/-- A write-back to A, by its effects (R147). -/
theorem writesBack_of_acc {i : Instr} {s : State} {r sr' : Byte} {new : Flag → Option Bool} (hmode : i.mode = .acc)
    (hexec : exec i s = .next { s with a := r, sr := sr' }) (hflags : FlagsAre s.sr sr' new) : WritesBack i s r new :=
  ⟨fun _ => ⟨sr', hexec, hflags⟩, fun hmem => absurd hmode hmem⟩

/-- A read-modify-write by the shifter `f`, of A in the Accumulator form `acc` and of a memory byte in every other form,
reads the operand and writes back what `f` makes of it and of the carry before (R144, R147). -/
theorem writesBack_of_shiftWith {i acc : Instr} {s : State} {f : Byte → Bool → Shifted}
    (h : (i = acc ∧ locOf i s = some .regA ∧ exec i s = .next (shiftWith f .regA s)) ∨
      (i.mode ≠ .acc ∧ ∃ ea, locOf i s = some (.mem ea) ∧ exec i s = .next (shiftWith f (.mem ea) s)))
    (hacc : acc.mode = .acc) :
    ∃ v, sourceByte i s = some v ∧
      WritesBack i s (f v (getFlag .c s.sr)).r (cznOf (f v (getFlag .c s.sr)).c (f v (getFlag .c s.sr)).r) := by
  obtain ⟨rfl, hloc, hexec⟩ | ⟨-, ea, hloc, hexec⟩ := h
  · obtain ⟨sr', hshift, hflags⟩ := shiftWith_regA f s
    exact ⟨_, sourceByte_of_locOf hloc, writesBack_of_acc hacc (hexec.trans (congrArg _ hshift)) hflags⟩
  · obtain ⟨m', sr', hshift, hstore, hflags⟩ := shiftWith_mem f ea s
    exact ⟨_, sourceByte_of_locOf hloc, writesBack_of_mem hloc (hexec.trans (congrArg _ hshift)) hstore hflags⟩

/-- Settles O38: every form of both is a read-modify-write by the shifter, whose result and carry are `asl8_eq` and
`lsr8_eq`. -/
theorem shiftsFillWithZero : Obligations.ShiftsFillWithZero := by
  refine fun i s => ⟨fun hi => ?_, fun hi => ?_⟩
  · simpa only [asl8_eq] using writesBack_of_shiftWith (exec_asl s hi) rfl
  · simpa only [lsr8_eq] using writesBack_of_shiftWith (exec_lsr s hi) rfl

/-- Settles O39: every form of both is a read-modify-write by the shifter, whose result and carry are `rol8_eq` and
`ror8_eq`. -/
theorem rotatesGoThroughCarry : Obligations.RotatesGoThroughCarry := by
  refine fun i s => ⟨fun hi => ?_, fun hi => ?_⟩
  · simpa only [rol8_eq] using writesBack_of_shiftWith (exec_rol s hi) rfl
  · simpa only [ror8_eq] using writesBack_of_shiftWith (exec_ror s hi) rfl

end Sys2Proof.Machine
end

section
/-! PROOFS. The load, store and transfer family (43_load_store_transfer.md): loads and transfers through one lemma about
what a load leaves, stores through one lemma about a write to memory. -/

namespace Sys2Proof.Machine

open Sys2Proof.Claims

/-! ### LDA, LDX and LDY (R180 to R182) -/

/-- Where the next state is known up to its SR (`put` of an SR with the flags `new`), so is what the instruction does: a
load is the case `put sr' = { s with a := v, sr := sr' }`, or the same for X or Y. -/
theorem exec_flagsAre_of_next {i : Instr} {s t : State} {put : Byte → State} {new : Flag → Option Bool}
    (hexec : exec i s = .next t) (ht : ∃ sr', t = put sr' ∧ FlagsAre s.sr sr' new) :
    ∃ sr', exec i s = .next (put sr') ∧ FlagsAre s.sr sr' new := by
  obtain ⟨sr', rfl, hflags⟩ := ht
  exact ⟨sr', hexec, hflags⟩

/-- An instruction that loads its operand puts the byte of R139's table in the register, with Z and N from it (R140). -/
theorem exec_of_load {i : Instr} {s : State} {load : Byte → State → State} {put : Byte → Byte → State}
    (h : ∃ op, locOf i s = some op ∧ exec i s = .next (load (op.read s) s))
    (hload : ∀ v, ∃ sr', load v s = put v sr' ∧ FlagsAre s.sr sr' (znOf v)) :
    ∃ m sr', sourceByte i s = some m ∧ exec i s = .next (put m sr') ∧ FlagsAre s.sr sr' (znOf m) := by
  obtain ⟨op, hloc, hexec⟩ := h
  obtain ⟨sr', hnext, hflags⟩ := exec_flagsAre_of_next hexec (hload (op.read s))
  exact ⟨op.read s, sr', sourceByte_of_locOf hloc, hnext, hflags⟩

/-- Settles O40: every form of LDA is a load of A. -/
theorem ldaLoadsA : Obligations.LdaLoadsA := fun _ s hi => exec_of_load (exec_lda s hi) (loadA_spec · s)

/-- Settles O41: every form of LDX is a load of X, and every form of LDY one of Y. -/
theorem ldxLdyLoadIndexRegisters : Obligations.LdxLdyLoadIndexRegisters := fun _ s =>
  ⟨fun hi => exec_of_load (exec_ldx s hi) (loadX_spec · s), fun hi => exec_of_load (exec_ldy s hi) (loadY_spec · s)⟩

/-! ### STA, STX and STY (R183 to R185) -/

/-- An instruction that writes `v` to its memory operand stores it at its effective address (R139). -/
theorem storesAt_of_locWrite {i : Instr} {s : State} {v : Byte}
    (h : ∃ ea, locOf i s = some (.mem ea) ∧ exec i s = .next (Loc.write (.mem ea) v s)) : StoresAt i s v := by
  obtain ⟨ea, hloc, hexec⟩ := h
  obtain ⟨m', hwrite, hstore⟩ := storeMem_spec ea v s
  exact ⟨ea.toNat, m', effAddr_of_locOf hloc, hexec.trans (congrArg _ hwrite), hstore⟩

/-- Settles O42: every form of the three writes its register to its memory operand. -/
theorem storesWriteOneByteAndNoFlag : Obligations.StoresWriteOneByteAndNoFlag := fun _ s =>
  ⟨fun hi => storesAt_of_locWrite (exec_sta s hi), fun hi => storesAt_of_locWrite (exec_stx s hi),
    fun hi => storesAt_of_locWrite (exec_sty s hi)⟩

/-! ### The transfers and NOP (R186 to R191, R231) -/

/-- Settles O43: each of the five is a load of its destination with its source. -/
theorem transfersMoveAndSetZN : Obligations.TransfersMoveAndSetZN := fun s =>
  ⟨exec_flagsAre_of_next rfl (loadX_spec s.a s), exec_flagsAre_of_next rfl (loadY_spec s.a s),
    exec_flagsAre_of_next rfl (loadA_spec s.x s), exec_flagsAre_of_next rfl (loadA_spec s.y s),
    exec_flagsAre_of_next rfl (loadX_spec s.sp s)⟩

/-- Settles O44: the meanings of TXS and NOP are these next states. -/
theorem txsAndNopWriteNoFlag : Obligations.TxsAndNopWriteNoFlag := fun _ => ⟨rfl, rfl⟩

end Sys2Proof.Machine
end

section
/-! PROOFS. The bit test and logic family (45_logic_bit.md): BIT flag by flag, and AND, ORA and EOR through one lemma
about a load of A with a bitwise combination of A and the operand. -/

namespace Sys2Proof.Machine

open Sys2Proof.Claims

/-! ### BIT (R210) -/

theorem getLsbD_six (v : Byte) : v.getLsbD 6 = decide (64 ≤ v.toNat % 128) := by
  rw [BitVec.getLsbD, Nat.testBit_eq_decide_div_mod_eq, decide_eq_decide]
  omega

theorem and_beq_zero_eq_decide (a m : Byte) : (a &&& m == 0) = decide (a.toNat &&& m.toNat = 0) := by
  rw [beq_eq_decide, decide_eq_decide, ← BitVec.toNat_inj, BitVec.toNat_and]
  rfl

/-- Settles O47: both forms of BIT are `bitTest` at the location their mode names, and its flags are
`getFlag_bitTest`, read over numbers. -/
theorem bitTestsOperand : Obligations.BitTestsOperand := by
  intro i s hi
  obtain ⟨op, hloc, hexec⟩ := exec_bit s hi
  refine ⟨op.read s, sourceByte_of_locOf hloc, _, hexec, fun f => (getFlag_bitTest f _ _ _).trans ?_⟩
  cases f with
  | n => exact bit7_eq_decide _
  | v => exact getLsbD_six _
  | z => exact and_beq_zero_eq_decide _ _
  | _ => rfl

/-! ### AND, ORA and EOR (R146, R211 to R213) -/

/-- An instruction that loads A with `f` of A and its operand, where `f` acts on each bit as `g` does, replaces A by that
bit-by-bit result and sets Z and N from it (R146). -/
theorem exec_of_logic {i : Instr} {s : State} {f : Byte → Byte → Byte} {g : Bool → Bool → Bool}
    (h : ∃ op, locOf i s = some op ∧ exec i s = .next (loadA (f s.a (op.read s)) s))
    (hbits : ∀ (a m : Byte) (k : Nat), (f a m).getLsbD k = g (a.getLsbD k) (m.getLsbD k)) :
    ∃ m r sr' : Byte, sourceByte i s = some m ∧ exec i s = .next { s with a := r, sr := sr' } ∧
      FlagsAre s.sr sr' (znOf r) ∧ ∀ k, k < 8 → r.getLsbD k = g (s.a.getLsbD k) (m.getLsbD k) := by
  obtain ⟨op, hloc, hexec⟩ := h
  obtain ⟨sr', hnext, hflags⟩ := exec_flagsAre_of_next hexec (loadA_spec (f s.a (op.read s)) s)
  exact ⟨op.read s, _, sr', sourceByte_of_locOf hloc, hnext, hflags, fun k _ => hbits s.a (op.read s) k⟩

/-- Settles O48: every form of the three loads A with the machine's bitwise operation, which acts bit by bit. -/
theorem logicActsBitByBit : Obligations.LogicActsBitByBit := by
  rintro i s g (⟨hi, rfl⟩ | ⟨hi, rfl⟩ | ⟨hi, rfl⟩)
  · exact exec_of_logic (exec_and s hi) fun _ _ _ => BitVec.getLsbD_and
  · exact exec_of_logic (exec_ora s hi) fun _ _ _ => BitVec.getLsbD_or
  · exact exec_of_logic (exec_eor s hi) fun _ _ _ => BitVec.getLsbD_xor

end Sys2Proof.Machine
end

section
/-! PROOFS. The flag, stack and NOP family (46_flags_stack_nop.md): the flag instructions through one lemma about a written
flag, and a run of pushes undone by as many pulls, by induction on the pushed bytes. -/

namespace Sys2Proof.Machine

open Sys2Proof.Claims

/-! ### The flag instructions (R220 to R226) -/

/-- An instruction that writes the flag `f` and does nothing else sets exactly that flag (R28). -/
theorem setsFlags_of_setFlag {i : Instr} {s : State} {f : Flag} {on : Bool}
    (hexec : exec i s = .next (s.setFlag f on)) : SetsFlags i s (only f on) := by
  obtain ⟨sr', hset, hflags⟩ := setFlag_spec s f on
  exact ⟨sr', hexec.trans (congrArg _ hset), hflags⟩

/-- Settles O49: each of the seven is one written flag. -/
theorem flagInstructionsWriteOneFlag : Obligations.FlagInstructionsWriteOneFlag := fun _ =>
  ⟨setsFlags_of_setFlag rfl, setsFlags_of_setFlag rfl, setsFlags_of_setFlag rfl, setsFlags_of_setFlag rfl,
    setsFlags_of_setFlag rfl, setsFlags_of_setFlag rfl, setsFlags_of_setFlag rfl⟩

/-! ### Runs of pushes and pulls (R62, R63, R232) -/

/-- The last of several pulls: its byte comes last, and the state after it is the state after them all. -/
theorem pullAll_succ (k : Nat) (s : State) : pullAll (k + 1) s =
    ((pullAll k s).1 ++ [(pullAll k s).2.pull.1], (pullAll k s).2.pull.2) := by
  induction k generalizing s with
  | zero => rfl
  | succ k ih => exact congrArg (Prod.map (s.pull.1 :: ·) id) (ih s.pull.2)

@[simp] theorem pullAll_mem (k : Nat) (s : State) : (pullAll k s).2.mem = s.mem := by
  induction k generalizing s with
  | zero => rfl
  | succ k ih => exact ih s.pull.2

/-- The stack byte `d` places above SP stands one place further above it once SP has moved down. -/
theorem stackByte_sub_one_add_succ (sp : Byte) (d : Nat) :
    stackByte ((sp - 1).toNat + (d + 1)) = stackByte (sp.toNat + d) := by
  rw [sub_one_eq, BitVec.toNat_ofNat, stackByte, stackByte]
  omega

/-- Pushes do not reach the byte `d` places above SP while they and those places fit in the stack page together. -/
theorem read_pushAll_above {vs : List Byte} {s : State} {d : Nat} (hd : 0 < d) (hfit : vs.length + d ≤ 256) :
    (pushAll vs s).mem.read (stackByte (s.sp.toNat + d)) = s.mem.read (stackByte (s.sp.toNat + d)) := by
  induction vs generalizing s d with
  | nil => rfl
  | cons v rest ih =>
    rw [List.length_cons] at hfit
    have hrest := ih (s := s.push v) (Nat.succ_pos d) (by omega)
    rw [push_sp, stackByte_sub_one_add_succ] at hrest
    have hother : stackByte (s.sp.toNat + d) ≠ stackByte s.sp.toNat := by
      rw [stackByte, stackByte]
      omega
    rw [pushAll, hrest, push_mem, stackAddr_eq_stackByte, Memory.read_write_other _ _ _ _ hother]

/-- Settles O53, by induction on the pushed bytes: the pulls that undo all pushes but the first leave SP one below where it
was, and the last pull finds the first byte there, for no later push has reached it. -/
theorem pullsUndoPushesUpToAFullPage : Obligations.PullsUndoPushesUpToAFullPage := by
  intro s vs hlen
  induction vs generalizing s with
  | nil => exact ⟨rfl, rfl⟩
  | cons v rest ih =>
    rw [List.length_cons] at hlen
    obtain ⟨hbytes, hsp⟩ := ih (s.push v) (by omega)
    have hkept : (pushAll rest (s.push v)).mem.read (stackByte ((s.push v).sp.toNat + 1)) =
        (s.push v).pull.1 := by
      rw [read_pushAll_above Nat.one_pos hlen, pull_spec]
    have hlast : (pullAll rest.length (pushAll rest (s.push v))).2.pull.1 = v := by
      rw [pull_spec, pullAll_mem, hsp, hkept]
      exact (pull_push s v).1
    rw [List.length_cons, pushAll, pullAll_succ, hlast, hbytes, List.reverse_cons, pull_sp, hsp, push_sp]
    exact ⟨rfl, BitVec.sub_add_cancel s.sp 1⟩

end Sys2Proof.Machine
end

section
/-! PROOFS. The control family (47_control.md): JMP, the words that JSR, RTS and RTI push and pull, the return from a call
through the stack's round trip, and BRK. The branches stand in the fetch, decode and addressing family. -/

namespace Sys2Proof.Machine

open Sys2Proof.Claims

/-! ### JMP (R240, R131, R135) -/

theorem exec_jmp {i : Instr} (s : State) (h : i.mnemonic = .jmp) :
    ∃ t, targetOf i s = some t.toNat ∧ exec i s = .next (jump t s) :=
  match i, h with
  | .jmpAbs _, _ => ⟨_, rfl, rfl⟩
  | .jmpInd w, _ => ⟨_, congrArg some (targetInd_toNat w s).symm, rfl⟩

/-- Settles O54: in both modes JMP is a jump to the target of rule R139's table. -/
theorem jmpSetsPc : Obligations.JmpSetsPc := by
  intro i s hi
  obtain ⟨t, htarget, hexec⟩ := exec_jmp s hi
  refine ⟨t.toNat, htarget, ?_⟩
  rw [hexec, jump, BitVec.ofNat_toNat, BitVec.setWidth_eq]

/-! ### Words on the stack (R57) -/

/-- A stack place counted from an SP that has wrapped is the place counted without the wrap (R24). -/
theorem stackByte_ofNat_add (n k : Nat) : stackByte ((BitVec.ofNat 8 n).toNat + k) = stackByte (n + k) := by
  rw [BitVec.toNat_ofNat, stackByte, stackByte, Nat.mod_add_mod]

/-- SP moved on after it has wrapped is SP moved in one go (R24). -/
theorem ofNat_toNat_ofNat_add (n k : Nat) : BitVec.ofNat 8 ((BitVec.ofNat 8 n).toNat + k) = BitVec.ofNat 8 (n + k) := by
  rw [← add_ofNat_eq, BitVec.ofNat_add]

theorem cat16_eq_ofNat (hi lo : Byte) : cat16 hi lo = BitVec.ofNat 16 (hi.toNat * 256 + lo.toNat) := by
  rw [← cat16_toNat, BitVec.ofNat_toNat, BitVec.setWidth_eq]

/-- Pull a word, low byte first (R57). -/
theorem pullWord_spec (s : State) : s.pullWord =
    (BitVec.ofNat 16 ((s.mem.read (stackByte (s.sp.toNat + 2))).toNat * 256 +
      (s.mem.read (stackByte (s.sp.toNat + 1))).toNat), { s with sp := BitVec.ofNat 8 (s.sp.toNat + 2) }) := by
  simp only [State.pullWord, pull_spec, stackByte_ofNat_add, ofNat_toNat_ofNat_add, cat16_eq_ofNat, Nat.add_assoc]

/-- SP two lower, wrapping (R24). -/
theorem sub_one_sub_one_eq (sp : Byte) : sp - 1 - 1 = BitVec.ofNat 8 (sp.toNat + 254) := by
  rw [← add_ofNat_eq, BitVec.sub_sub, BitVec.sub_eq_add_neg]
  rfl

/-- Push a word, high byte first (R57). -/
theorem pushWord_spec (s : State) (w : Word) : s.pushWord w = { s with
    mem := (s.mem.write (stackByte s.sp.toNat) (hi8 w)).write (stackByte (s.sp.toNat + 255)) (lo8 w)
    sp := BitVec.ofNat 8 (s.sp.toNat + 254) } := by
  rw [← stackAddr_eq_stackByte, ← stackAddr_sub_one, ← sub_one_sub_one_eq]
  rfl

/-- The two bytes of a word, as one number (R11). -/
theorem hi8_lo8_toNat (w : Word) : (hi8 w).toNat * 256 + (lo8 w).toNat = w.toNat := by
  rw [← cat16_toNat, Laws.Table.cat16_hi8_lo8]

/-- Pulling back a pushed word gives it and moves SP back; the bytes stay in the stack page (R57, R232). It is O53 for two
bytes. -/
theorem pullWord_pushWord (s : State) (w : Word) :
    (s.pushWord w).pullWord = (w, { s with mem := (s.pushWord w).mem }) := by
  obtain ⟨hbytes, hsp⟩ := pullsUndoPushesUpToAFullPage s [hi8 w, lo8 w] (Nat.le_add_left 2 254)
  have hlo : (s.pushWord w).pull.1 = lo8 w := List.head_eq_of_cons_eq hbytes
  have hhi : (s.pushWord w).pull.2.pull.1 = hi8 w := List.head_eq_of_cons_eq (List.tail_eq_of_cons_eq hbytes)
  refine Prod.ext ?_ (congrArg (fun sp => { s with mem := (s.pushWord w).mem, sp := sp }) hsp)
  calc (s.pushWord w).pullWord.1 = cat16 (hi8 w) (lo8 w) := congrArg₂ cat16 hhi hlo
    _ = w := Laws.Table.cat16_hi8_lo8 w

/-! ### Calls and returns (R241, R242, R244) -/

/-- Settles O55: a pushed word, the address before the next instruction. -/
theorem jsrPushesReturnAddressAndJumps : Obligations.JsrPushesReturnAddressAndJumps := by
  intro s w
  refine ⟨_, _, hi8 (s.pc - 1), lo8 (s.pc - 1), ?_, fun _ => Memory.read_write _ _ _ _,
    fun _ => Memory.read_write _ _ _ _, ?_⟩
  · rw [hi8_lo8_toNat, BitVec.toNat_sub, Nat.add_comm]
    rfl
  · change Host.Outcome.next (call w s) = _
    rw [call, pushWord_spec]

/-- Settles O56: a pulled word, and one more. -/
theorem rtsResumesOnePastPulledAddress : Obligations.RtsResumesOnePastPulledAddress := by
  intro s
  change Host.Outcome.next (ret s) = _
  rw [ret, pullWord_spec, BitVec.ofNat_add (n := 16) _ 1]
  rfl

/-- A return undoes a call on every register (C5). -/
theorem ret_call (t : Word) (s : State) : ret (call t s) = { s with mem := (call t s).mem } := by
  have hcall : call t s = { s with pc := t }.pushWord (s.pc - 1) := rfl
  simp only [hcall, ret, pullWord_pushWord, BitVec.sub_add_cancel]

/-- Settles O57: JSR is a call and RTS the return from it. -/
theorem rtsReturnsFromJsr : Obligations.RtsReturnsFromJsr := fun s w =>
  ⟨call w s, (call w s).mem, rfl, congrArg Host.Outcome.next (ret_call w s)⟩

/-- Settles O58: a pulled byte, then a pulled word. -/
theorem rtiPullsSrThenPc : Obligations.RtiPullsSrThenPc := by
  intro s
  change Host.Outcome.next s.pullStatusAndPc = _
  simp only [State.pullStatusAndPc, pull_spec, pullWord_spec, stackByte_ofNat_add, ofNat_toNat_ofNat_add, Nat.add_assoc]

/-! ### BRK (R243) -/

/-- Settles O59: one written flag, and no push, vector or stop. -/
theorem brkSetsBreakAndContinues : Obligations.BrkSetsBreakAndContinues :=
  fun _ => ⟨setsFlags_of_setFlag rfl, rfl⟩

end Sys2Proof.Machine
end

section
/-! PROOFS. The exceptions family (60_exceptions.md): the one exception, where the fetch unit raises it, and that a running
core completes every other step. -/

namespace Sys2Proof.Machine

/-- The fetch unit finds no instruction exactly where the byte at PC is outside the map (R89, R123). -/
theorem fetchInstr_eq_none_iff_not_mem {s : State} (hp : s.params.wf = true) :
    s.fetchInstr = none ↔ s.readMem s.pc ∉ s.params.opcodeMap :=
  (fetchInstr_eq_none_iff s).trans (lookupRow_eq_none_iff hp _)

/-- A step from a ready state takes the exception where the fetch unit finds no instruction (R260). -/
theorem step_of_fetchInstr_eq_none {s : State} (hs : s.Ready) (h : s.fetchInstr = none) :
    step s = .next s.raiseUnsupportedOpcode := by
  obtain ⟨hr, hst⟩ := hs
  simp [step, hr, hst, h]

/-- Settles O11: the fetch unit finds no instruction, and `State.raiseUnsupportedOpcode` is the state written out. -/
theorem unsupportedOpcodeStopsTheCore : Obligations.UnsupportedOpcodeStopsTheCore :=
  fun _ hs hp hbyte => step_of_fetchInstr_eq_none hs ((fetchInstr_eq_none_iff_not_mem hp).mpr hbyte)

/-- Settles O23: every instruction has its shape, and the shape is of a next state. -/
theorem everyInstructionCompletes : Obligations.EveryInstructionCompletes := by
  intro i s
  obtain ⟨t, h, -⟩ := exec_shape i s
  exact ⟨t, h⟩

/-- Settles O12: the fetch unit finds no instruction, which is the exception, or one that completes and keeps the status. -/
theorem onlyUnsupportedOpcodeIsAnException : Obligations.OnlyUnsupportedOpcodeIsAnException := by
  intro s hs hp
  rw [← fetchInstr_eq_none_iff_not_mem hp]
  cases hf : s.fetchInstr with
  | none => exact ⟨_, step_of_fetchInstr_eq_none hs hf, iff_of_true nofun rfl⟩
  | some fetch =>
    obtain ⟨i, fetched⟩ := fetch
    obtain ⟨t, he⟩ := everyInstructionCompletes i fetched
    have hstep : step s = .next t := (step_of_fetchInstr hs hf).trans he
    obtain ⟨hexec, -, -⟩ := instructionsKeepStatusAndParams i fetched t he
    obtain ⟨-, hfetch, -⟩ := fetchInstr_keeps hf
    obtain ⟨-, hrun⟩ := hs
    have hstatus : t.status = .running := hexec.trans (hfetch.trans hrun)
    exact ⟨t, hstep, iff_of_false (not_not_intro hstatus) nofun⟩

end Sys2Proof.Machine
end
